-- ==== Sys2Proof/Word.lean ====
section
/-! DEFINITION. The word types of the `envelope_follower` block (10_state.md: every register holds a 32-bit
pattern; 30_encoding.md R91, R95: a command is 40 bits and a response is 33 bits). The meaning of a 32-bit
pattern as an IEEE 754 binary32 value stands in Sys2Proof/Machine/Float.lean. -/

namespace Sys2Proof

/-- A 32-bit pattern: the contents of a register and the DATA field of a command or a response (R12, R72). -/
abbrev F32 := BitVec 32

/-- A command word (R91): OP in bits 39:37, IDX in bits 36:32, DATA in bits 31:0. -/
abbrev CmdWord := BitVec 40

/-- A response word (R95): KIND in bit 32, DATA in bits 31:0. -/
abbrev RspWord := BitVec 33

/-- The IDX field of a command (R91, R97): an unsigned 5-bit register index. -/
abbrev RegIdx := BitVec 5

/-- The OP field of a command (R91, R96). -/
abbrev Opcode := BitVec 3

end Sys2Proof
end

