-- ==== Sys2Proof/Config.lean ====
section
/-! DEFINITION. What is fixed for this hardware: the sample rate (R9), the binary32 constants of the rules (R18),
the canonical NaN (R15) and the default tunables (R31, R124). The implementation parameters the spec leaves OPEN
(R10: `ExpF`, `LATENCY`, `II`, and the response buffer's capacity, 93_implementation_defined.md row 9) are plain
data in `Machine.ImplParams` (Sys2Proof/Machine/State.lean), so that a statement about every state holds for
every choice of them (assumption log, entries 1, 2 and 3). -/

namespace Sys2Proof.Config

/-- `FS_HZ` = 44100.0, the build-time sample rate (R9, R18); register FS reads as it (R35). -/
def fsHz : F32 := 0x472C4400#32

/-- `CANON_NAN`, the one NaN the arithmetic primitives produce (R15). -/
def canonNaN : F32 := 0x7FC00000#32

/-- +infinity (R12: E = 255 and T = 0). -/
def posInf : F32 := 0x7F800000#32

/-- −infinity (R12). -/
def negInf : F32 := 0xFF800000#32

/-- `0.0f` (R18). -/
def zero : F32 := 0x00000000#32

/-- `0.5f` (R18). -/
def half : F32 := 0x3F000000#32

/-- `1.0f` (R18). -/
def one : F32 := 0x3F800000#32

/-- `−1.0f` (R18). -/
def negOne : F32 := 0xBF800000#32

/-- `2.0f` (R18). -/
def two : F32 := 0x40000000#32

/-- `3.0f` (R18), the divisor of the tangent polynomial. -/
def three : F32 := 0x40400000#32

/-- `6.0f` (R18), the divisor of the sine polynomial. -/
def six : F32 := 0x40C00000#32

/-- `PI_F` (R18), the binary32 value nearest π. -/
def piF : F32 := 0x40490FDB#32

/-- Default τ_attack, 0.04 s (R31). -/
def defaultTauA : F32 := 0x3D23D70A#32

/-- Default τ_release, 0.002 s (R31). -/
def defaultTauR : F32 := 0x3B03126F#32

/-- Default min_freq_hz, 20.0 Hz (R31). -/
def defaultMinF : F32 := 0x41A00000#32

/-- Default max_freq_hz, 3000.0 Hz (R31). -/
def defaultMaxF : F32 := 0x453B8000#32

/-- Default q, 0.2 (R31). -/
def defaultQ : F32 := 0x3E4CCCCD#32

/-- Default mix_ratio, 1.0 (R31). -/
def defaultMix : F32 := 0x3F800000#32

end Sys2Proof.Config
end

