-- ==== Sys2Proof/Machine/Float.lean ====
section
/-! DEFINITION. Binary32 arithmetic (00_scope.md R12, R14, R15, R16), exact and then rounded once.
Every finite binary32 value is a whole multiple of 2^−149, so a finite value is held as an integer count of that
unit (`val`), and the exact result of an operation is a quotient of two naturals in that unit. -/

namespace Sys2Proof.Float

/-- Bit 31, the sign S (R12): true for a pattern with the sign set. -/
def sign (a : F32) : Bool := a.msb

/-- Bits 30:23, the biased exponent E (R12). -/
def expo (a : F32) : Nat := a.toNat / 2 ^ 23 % 2 ^ 8

/-- Bits 22:0, the fraction T (R12). -/
def frac (a : F32) : Nat := a.toNat % 2 ^ 23

/-- `isNaN` (R12, R14). -/
def isNaN (a : F32) : Bool := expo a == 255 && frac a != 0

/-- `isInf` (R12, R14). -/
def isInf (a : F32) : Bool := expo a == 255 && frac a == 0

/-- `isFinite` (R12, R14). -/
def isFinite (a : F32) : Bool := expo a != 255

/-- A zero of either sign (R12). -/
def isZero (a : F32) : Bool := expo a == 0 && frac a == 0

/-- The magnitude of a finite value in units of 2^−149: T for a subnormal or zero, else (2^23 + T) × 2^(E−1) (R12). -/
def mag (a : F32) : Nat :=
  if expo a = 0 then frac a else (2 ^ 23 + frac a) * 2 ^ (expo a - 1)

/-- A finite value in units of 2^−149 (R12). -/
def val (a : F32) : Int := if sign a then -(mag a : Int) else mag a

/-- `n / d` to the nearest natural, ties to even (R14). -/
def roundNat (n d : Nat) : Nat :=
  if 2 * (n % d) < d then n / d
  else if d < 2 * (n % d) then n / d + 1
  else n / d + n / d % 2

/-- The exponent of the quantum a magnitude of `q` units is rounded to: 24 significant bits, and never less than
one unit (R12, R14: subnormals are kept). -/
def quantum (q : Nat) : Nat := Nat.log2 q - 23

/-- Bits 30:0 of the binary32 nearest to `n / d` units of 2^−149, ties to even; a magnitude too large gives the
infinity (R14). The hidden bit of a normal significand carries into the exponent field, which is why the two fields
are added. -/
def roundMag (n d : Nat) : Nat :=
  min (quantum (n / d) * 2 ^ 23 + roundNat n (d * 2 ^ quantum (n / d))) 0x7F800000

/-- A pattern from its sign and its bits 30:0. -/
def pack (neg : Bool) (m : Nat) : F32 := BitVec.ofNat 32 (m + if neg then 2 ^ 31 else 0)

/-- `fabs` (R14): bit 31 cleared, no other bit changed, also for a NaN. -/
def fabs (a : F32) : F32 := a &&& 0x7FFFFFFF#32

/-- The pattern with bit 31 inverted. -/
def fneg (a : F32) : F32 := pack (!sign a) (a.toNat % 2 ^ 31)

/-- The sum of two finite values: exact, then rounded once; an exact zero is +0 unless both operands are negative
(R14, R16). -/
def addFinite (a b : F32) : F32 :=
  if val a + val b = 0 then pack (sign a && sign b) 0
  else pack (decide (val a + val b < 0)) (roundMag (val a + val b).natAbs 1)

/-- `fadd` (R14, R15, R16). -/
def fadd (a b : F32) : F32 :=
  if isNaN a || isNaN b then Config.canonNaN
  else if isInf a then (if isInf b && sign a != sign b then Config.canonNaN else a)
  else if isInf b then b
  else addFinite a b

/-- `fsub` (R14, R15, R16): a − b is a + (−b). -/
def fsub (a b : F32) : F32 := fadd a (fneg b)

/-- `fmul` (R14, R15, R16). -/
def fmul (a b : F32) : F32 :=
  if isNaN a || isNaN b then Config.canonNaN
  else if isInf a || isInf b then
    (if isZero a || isZero b then Config.canonNaN else pack (sign a ^^ sign b) 0x7F800000)
  else pack (sign a ^^ sign b) (roundMag (mag a * mag b) (2 ^ 149))

/-- `fdiv` (R14, R15, R16). -/
def fdiv (a b : F32) : F32 :=
  if isNaN a || isNaN b then Config.canonNaN
  else if isInf a then (if isInf b then Config.canonNaN else pack (sign a ^^ sign b) 0x7F800000)
  else if isInf b then pack (sign a ^^ sign b) 0
  else if isZero b then (if isZero a then Config.canonNaN else pack (sign a ^^ sign b) 0x7F800000)
  else pack (sign a ^^ sign b) (roundMag (mag a * 2 ^ 149) (mag b))

/-- One bit of a square root after another, from bit `k` − 1 down: the greatest `r` whose square is at most `n` and
that adds only those bits to the root so far. -/
def sqrtBits (n : Nat) : Nat → Nat → Nat
  | 0, r => r
  | k + 1, r => sqrtBits n k (if (r + 2 ^ k) * (r + 2 ^ k) ≤ n then r + 2 ^ k else r)

/-- The whole part of the square root of a number below 2^428 (the radicand of a binary32 is below 2^426). -/
def isqrt (n : Nat) : Nat := sqrtBits n 214 0

/-- The square root of `n` units as a quotient of denominator 2 that rounds as the exact root does: the root itself
where it is whole, else the half above its whole part (no rounding boundary lies strictly between two whole numbers
where the root has more than 24 bits). -/
def sqrtTwice (n : Nat) : Nat := 2 * isqrt n + if isqrt n * isqrt n = n then 0 else 1

/-- `fsqrt` (R14, R15, R16): a negative operand other than −0 gives the canonical NaN. -/
def fsqrt (a : F32) : F32 :=
  if isNaN a then Config.canonNaN
  else if isZero a then a
  else if sign a then Config.canonNaN
  else if isInf a then a
  else pack false (roundMag (sqrtTwice (mag a * 2 ^ 149)) 2)

/-- The numeric order of the patterns that are no NaN: both zeros are 0, and an infinity lies beyond every finite
value. -/
def orderKey (a : F32) : Int :=
  if sign a then -((a.toNat % 2 ^ 31 : Nat) : Int) else (a.toNat % 2 ^ 31 : Nat)

/-- `fmax` (R14): the other operand where one is a NaN, the larger one, and `a` on a tie. -/
def fmax (a b : F32) : F32 :=
  if isNaN a then b
  else if isNaN b then a
  else if orderKey a < orderKey b then b
  else a

end Sys2Proof.Float
end

