-- ==== Sys2Proof/Syntax.lean ====
section
/-! DEFINITION. The commands of the block (30_encoding.md R96), one constructor per row of spec/opcode_table.json.
The block is not a processor (R2): these commands are its instructions, and only the fields a command uses are
operands (R98, R99). -/

namespace Sys2Proof

/-- A decoded command. -/
inductive Instr where
  /-- NOP, OP 000 (R180). -/
  | nop
  /-- SETP, OP 001: write one parameter register (R120). -/
  | setp (idx : RegIdx) (data : F32)
  /-- CONSTRUCT, OP 010: derive the coefficients and start a new Filter State (R121). -/
  | construct
  /-- DEFAULTS, OP 011: the parameterless default construction (R124). -/
  | defaults
  /-- PROCESS, OP 100: process one sample (R140). -/
  | process (x : F32)
  /-- PEEK, OP 101: read one register (R181). -/
  | peek (idx : RegIdx)
  /-- The reserved opcode 110 (R183). -/
  | reserved110
  /-- The reserved opcode 111 (R183). -/
  | reserved111
  deriving DecidableEq, Repr

end Sys2Proof
end

