-- ==== Sys2Proof/Machine/State.lean ====
section
/-! DEFINITION. The state of the block as plain data (10_state.md R30, R55), the reasons a step can stop, and the
state right after reset. The block has no program counter, no memory, no modes and no exception registers (R49,
R50, R51, R70, R190, R196). Register FS and STATUS bits 31:3 are hard-wired (R35, R44, R50), so nothing holds
them: reading them is decided in Sys2Proof/Machine/Operands.lean and Sys2Proof/Machine/Flags.lean. -/

namespace Sys2Proof.Machine

/-- The implementation parameters R10 and row 9 of 93_implementation_defined.md leave open, "the model takes as
arguments". They are no state of the block (R30): no command, no clock edge and no reset writes them. They stand in
State as plain data because the form of `exec` gives a meaning no other argument, so that every statement about
every state holds for every choice of them (log entries 1, 2, 3). -/
structure ImplParams where
  /-- The points at which this implementation's `ExpF` differs from the reference one (R21), first match first.
  The empty list is the reference `ExpF`. Every function R21 admits is given by some list, and no list gives
  another (Sys2Proof/Machine/Exp.lean). -/
  expPoints : List (F32 × F32)
  /-- `LATENCY` − 1: `LATENCY` is at least 1 (R10). -/
  latencyExtra : Nat
  /-- `II` − 1: `II` is at least 1 (R10). -/
  iiExtra : Nat
  /-- The capacity of the response buffer less 1, or none for an unbounded one (R47, R76). -/
  rspRoomExtra : Option Nat
  deriving DecidableEq, Repr

/-- The KIND of a response (R95). -/
inductive RspKind where
  /-- KIND = 0, the result of PROCESS. -/
  | sample
  /-- KIND = 1, the result of PEEK. -/
  | peek
  deriving DecidableEq, Repr

/-- One entry of RSPQ (R47): a response, and how many clock edges still pass before it is offered (R10 `LATENCY`,
R92). -/
structure Response where
  kind : RspKind
  data : F32
  wait : Nat
  deriving DecidableEq, Repr

/-- The block's inputs at one rising edge of `clk` (R90). -/
structure PortEdge where
  rst : Bool
  cmdValid : Bool
  cmdWord : CmdWord
  rspReady : Bool
  deriving DecidableEq, Repr

/-- The state of the block. -/
structure State where
  /-- P_TAU_A, index 0 (R31). -/
  pTauA : F32
  /-- P_TAU_R, index 1 (R31). -/
  pTauR : F32
  /-- P_MIN_F, index 2 (R31). -/
  pMinF : F32
  /-- P_MAX_F, index 3 (R31). -/
  pMaxF : F32
  /-- P_Q, index 4 (R31). -/
  pQ : F32
  /-- P_MIX, index 5 (R31). -/
  pMix : F32
  /-- ALPHA_A, index 6 (R34). -/
  alphaA : F32
  /-- BETA_A, index 7 (R34). -/
  betaA : F32
  /-- ALPHA_R, index 8 (R34). -/
  alphaR : F32
  /-- BETA_R, index 9 (R34). -/
  betaR : F32
  /-- GAIN_LP, index 10 (R34). -/
  gainLp : F32
  /-- MIN_FREQ, index 11 (R34). -/
  minFreq : F32
  /-- FREQ_BW, index 12 (R34). -/
  freqBw : F32
  /-- QC, index 13 (R34). -/
  qc : F32
  /-- ALPHA_MIX, index 14 (R34). -/
  alphaMix : F32
  /-- BETA_MIX, index 15 (R34). -/
  betaMix : F32
  /-- REL, index 17 (R38, R39). -/
  rel : F32
  /-- ATT, index 18 (R38, R40). -/
  att : F32
  /-- DLY, index 19 (R38, R41). -/
  dly : F32
  /-- CF, index 20 (R38, R42). -/
  cf : F32
  /-- HP, index 21 (R38, R43). -/
  hp : F32
  /-- BP, index 22 (R38, R43). -/
  bp : F32
  /-- LP, index 23 (R38, R43). -/
  lp : F32
  /-- STATUS bit 0, ERR_OP (R44). -/
  errOp : Bool
  /-- STATUS bit 1, ERR_IDX (R44). -/
  errIdx : Bool
  /-- STATUS bit 2, CFG_NONFINITE (R44, R45). -/
  cfgNonfinite : Bool
  /-- RSPQ, the responses produced and not yet accepted by the host, oldest first (R47). -/
  rspq : List Response
  /-- How many clock edges still pass before `cmd_ready` can rise: the command accepted last is still executing
  (R76, R10 `II`). -/
  busy : Nat
  /-- Has the block seen a reset since power-up (R222)? -/
  initialised : Bool
  /-- The model's own: what the host drives on the input ports at the coming clock edges, next edge first (R90). When
  the list is at its end the host drives 0 on every input. -/
  inputs : List PortEdge
  /-- The implementation parameters; never written. -/
  impl : ImplParams
  deriving DecidableEq, Repr

/-- The faults of the block: there are none. "The block never traps. No command, input value or coefficient value
causes a control transfer, a stall, a halt, a reset or a refusal to accept later commands" (R190). -/
inductive Fault where
  deriving DecidableEq, Repr

/-- The reasons a step is refused. -/
inductive Refusal where
  /-- Raised by an arm of `exec` whose instruction has no meaning yet; no arm is so. Safe: the model stops. -/
  | notModelled (mnemonic : String)
  /-- Raised by a clock edge without `rst` before the first reset after power-up: "a model asked about behaviour
  before the first reset refuses" (R222). Safe: the model answers nothing about that time. -/
  | beforeFirstReset
  deriving DecidableEq, Repr

/-- The implementation the reset state names: the reference `ExpF`, the least `LATENCY` and `II`, and an unbounded
response buffer (log entries 1, 2, 3: DESIGN CHOICE). -/
def ImplParams.reference : ImplParams :=
  { expPoints := [], latencyExtra := 0, iiExtra := 0, rspRoomExtra := none }

/-- The state right after reset, value by value as R55 gives it; the coefficient registers hold the encodings of the
R34 table, which are those of the reference `ExpF`. The host has driven nothing yet. -/
def State.reset : State where
  pTauA := 0x3D23D70A#32
  pTauR := 0x3B03126F#32
  pMinF := 0x41A00000#32
  pMaxF := 0x453B8000#32
  pQ := 0x3E4CCCCD#32
  pMix := 0x3F800000#32
  alphaA := 0x3F7FDADC#32
  betaA := 0x3A149000#32
  alphaR := 0x3F7D1D28#32
  betaR := 0x3C38B600#32
  gainLp := 0x3EA1E89B#32
  minFreq := 0x3ABABEF7#32
  freqBw := 0x3EDA1D0B#32
  qc := 0x3E4CCCCD#32
  alphaMix := 0x3F800000#32
  betaMix := 0x00000000#32
  rel := 0#32
  att := 0#32
  dly := 0#32
  cf := 0#32
  hp := 0#32
  bp := 0#32
  lp := 0#32
  errOp := false
  errIdx := false
  cfgNonfinite := false
  rspq := []
  busy := 0
  initialised := true
  inputs := []
  impl := ImplParams.reference

end Sys2Proof.Machine
end

