-- ==== Sys2Proof/Machine/Exp.lean ====
section
/-! DEFINITION. `ExpF`, the exponential CONSTRUCT uses (00_scope.md R10, R21): a parameter of the implementation, of
which the spec assumes only the properties R21 lists. The reference `ExpF` of the spec is e^a correctly rounded. -/

namespace Sys2Proof.Float

/-- How many fractional bits the reference exponential computes with. -/
def expBits : Nat := 256

/-- `k` terms of the series of e^y from the `j`-th on, in fixed point with `expBits` fractional bits; `t` is the
`j`-th term and `acc` the sum of those before it. -/
def expSeries (y : Nat) : Nat → Nat → Nat → Nat → Nat
  | 0, _, _, acc => acc
  | k + 1, j, t, acc => expSeries y k (j + 1) (t * y / (2 ^ expBits * (j + 1))) (acc + t)

/-- A fixed-point number squared `k` times. -/
def squareTimes : Nat → Nat → Nat
  | 0, v => v
  | k + 1, v => squareTimes k (v * v / 2 ^ expBits)

/-- e^y in fixed point for a magnitude of `m` units of 2^−149 below 104: the series at y / 2^16, squared 16 times. -/
def expFixed (m : Nat) : Nat :=
  squareTimes 16 (expSeries (m * 2 ^ (expBits - 165)) 64 0 (2 ^ expBits) 0)

/-- The reference `ExpF` (R21): e^a correctly rounded to binary32. From magnitude 104 on, e^a is beyond the largest
binary32 or below half the least one. The fixed-point value differs from e^a by less than one part in 2^100, and no
binary32 argument brings e^a that close to a rounding boundary (log entry 4). -/
def expRef (a : F32) : F32 :=
  if isNaN a then Config.canonNaN
  else if isInf a then (if sign a then Config.zero else Config.posInf)
  else if isZero a then Config.one
  else if 104 * 2 ^ 149 ≤ mag a then (if sign a then Config.zero else Config.posInf)
  else if sign a then
    pack false (roundMag (2 ^ expBits * 2 ^ expBits / expFixed (mag a) * 2 ^ 149) (2 ^ expBits))
  else pack false (roundMag (expFixed (mag a) * 2 ^ 149) (2 ^ expBits))

/-- What an implementation gives for `a`: its own value at a listed point, the reference elsewhere. -/
def expAt : List (F32 × F32) → F32 → F32
  | [], a => expRef a
  | (x, y) :: rest, a => if x = a then y else expAt rest a

/-- The value nearest in kind to `r` that R21 admits at `a`: `r` itself wherever R21 admits it. -/
def conformExp (a r : F32) : F32 :=
  if isNaN a then (if isNaN r then r else Config.canonNaN)
  else if isInf a then (if sign a then Config.zero else Config.posInf)
  else if isZero a then Config.one
  else if isNaN r || (sign r && !isZero r) then Config.zero
  else r

/-- `ExpF` of an implementation (R10, R21). -/
def expF (p : Machine.ImplParams) (a : F32) : F32 := conformExp a (expAt p.expPoints a)

end Sys2Proof.Float
end

