-- ==== Sys2Proof/Machine/Flags.lean ====
section
/-! DEFINITION. The STATUS register (10_state.md R44, R45, R46; 42_control.md R182): the only flags of the block
(R51). -/

namespace Sys2Proof.Machine

/-- A bit STATUS keeps set until reset (R44, R191). -/
inductive StickyBit where
  | errOp
  | errIdx
  deriving DecidableEq, Repr

/-- `setStatus(BIT)` (R17): sets one sticky bit. -/
def setStatus (b : StickyBit) (s : State) : State :=
  match b with
  | .errOp => { s with errOp := true }
  | .errIdx => { s with errIdx := true }

/-- The STATUS word `{29'b0, CFG_NONFINITE, ERR_IDX, ERR_OP}` (R182); bits 31:3 are hard-wired to 0 (R44, R50). -/
def statusWord (s : State) : F32 :=
  0#29 ++ (BitVec.ofBool s.cfgNonfinite ++ (BitVec.ofBool s.errIdx ++ BitVec.ofBool s.errOp))

/-- Is any of the ten coefficients CONSTRUCT writes a NaN or an infinity (R45)? -/
def anyNonfinite (s : State) : Bool :=
  !(Float.isFinite s.alphaA && Float.isFinite s.betaA && Float.isFinite s.alphaR && Float.isFinite s.betaR
    && Float.isFinite s.gainLp && Float.isFinite s.minFreq && Float.isFinite s.freqBw && Float.isFinite s.qc
    && Float.isFinite s.alphaMix && Float.isFinite s.betaMix)

/-- STATUS.CFG_NONFINITE as every CONSTRUCT and DEFAULTS writes it (R45, R121). -/
def updateCfgNonfinite (s : State) : State := { s with cfgNonfinite := anyNonfinite s }

end Sys2Proof.Machine
end

