-- ==== Sys2Proof/Machine/Operands.lean ====
section
/-! DEFINITION. The one operand form of the block that names state: the 5-bit register index (30_encoding.md R97,
10_state.md R50). DATA is used as it stands (R98), so it needs no operation. -/

namespace Sys2Proof.Machine

/-- The registers SETP may write (R31, R97). -/
inductive ParamReg where
  | tauA
  | tauR
  | minF
  | maxF
  | q
  | mix
  deriving DecidableEq, Repr

/-- The registers PEEK reads (R97). -/
inductive Reg where
  | param (p : ParamReg)
  | alphaA
  | betaA
  | alphaR
  | betaR
  | gainLp
  | minFreq
  | freqBw
  | qc
  | alphaMix
  | betaMix
  | fs
  | rel
  | att
  | dly
  | cf
  | hp
  | bp
  | lp
  | status
  deriving DecidableEq, Repr

/-- The parameter register of an index, for SETP: none outside 0 to 5 (R97, R120). -/
def paramOfIdx (idx : RegIdx) : Option ParamReg :=
  match idx.toNat with
  | 0 => some .tauA
  | 1 => some .tauR
  | 2 => some .minF
  | 3 => some .maxF
  | 4 => some .q
  | 5 => some .mix
  | _ => none

/-- The register of an index, for PEEK: none for the reserved indices 25 to 31 (R97, R181). -/
def regOfIdx (idx : RegIdx) : Option Reg :=
  match idx.toNat with
  | 0 => some (.param .tauA)
  | 1 => some (.param .tauR)
  | 2 => some (.param .minF)
  | 3 => some (.param .maxF)
  | 4 => some (.param .q)
  | 5 => some (.param .mix)
  | 6 => some .alphaA
  | 7 => some .betaA
  | 8 => some .alphaR
  | 9 => some .betaR
  | 10 => some .gainLp
  | 11 => some .minFreq
  | 12 => some .freqBw
  | 13 => some .qc
  | 14 => some .alphaMix
  | 15 => some .betaMix
  | 16 => some .fs
  | 17 => some .rel
  | 18 => some .att
  | 19 => some .dly
  | 20 => some .cf
  | 21 => some .hp
  | 22 => some .bp
  | 23 => some .lp
  | 24 => some .status
  | _ => none

/-- What a parameter register holds (R31). -/
def readParam (p : ParamReg) (s : State) : F32 :=
  match p with
  | .tauA => s.pTauA
  | .tauR => s.pTauR
  | .minF => s.pMinF
  | .maxF => s.pMaxF
  | .q => s.pQ
  | .mix => s.pMix

/-- What a register reads as. FS is hard-wired to `FS_HZ` (R35, R50); STATUS is its word (R182). -/
def readReg (r : Reg) (s : State) : F32 :=
  match r with
  | .param p => readParam p s
  | .alphaA => s.alphaA
  | .betaA => s.betaA
  | .alphaR => s.alphaR
  | .betaR => s.betaR
  | .gainLp => s.gainLp
  | .minFreq => s.minFreq
  | .freqBw => s.freqBw
  | .qc => s.qc
  | .alphaMix => s.alphaMix
  | .betaMix => s.betaMix
  | .fs => Config.fsHz
  | .rel => s.rel
  | .att => s.att
  | .dly => s.dly
  | .cf => s.cf
  | .hp => s.hp
  | .bp => s.bp
  | .lp => s.lp
  | .status => statusWord s

/-- A write of one parameter register: every 32-bit pattern is stored as written (R32). -/
def writeParam (p : ParamReg) (v : F32) (s : State) : State :=
  match p with
  | .tauA => { s with pTauA := v }
  | .tauR => { s with pTauR := v }
  | .minF => { s with pMinF := v }
  | .maxF => { s with pMaxF := v }
  | .q => { s with pQ := v }
  | .mix => { s with pMix := v }

end Sys2Proof.Machine
end

