-- ==== Sys2Proof/Machine/Ops.lean ====
section
/-! DEFINITION. The operations the commands, the reset and the ports share. The block has no memory (20_memory.md
R70) and takes no exception (60_exceptions.md R190, R195: no trap entry, no saved state, no vector, no return), so
there is no operation over memory and none that enters or leaves a handler; what the spec gives in an exception's
place is `setStatus` (Sys2Proof/Machine/Flags.lean) and the reset below. -/

namespace Sys2Proof.Machine

/-- `emit(kind, data)` (R17, R47): appends one response at the end of RSPQ. It is offered `LATENCY` clock edges after
the edge that accepted its command (R10, R92). -/
def emit (kind : RspKind) (data : F32) (s : State) : State :=
  { s with rspq := s.rspq ++ [{ kind := kind, data := data, wait := s.impl.latencyExtra }] }

/-- ALPHA of a time constant τ: `ExpF(fdiv(−1.0f, fmul(τ, FS_HZ)))` (R121). -/
def alphaOf (impl : ImplParams) (tau : F32) : F32 :=
  Float.expF impl (Float.fdiv Config.negOne (Float.fmul tau Config.fsHz))

/-- An angular frequency: `fdiv(fmul(PI_F, hz), FS_HZ)` (R121). -/
def angular (hz : F32) : F32 := Float.fdiv (Float.fmul Config.piF hz) Config.fsHz

/-- The attack and release coefficients CONSTRUCT derives (R121). -/
def deriveTimeConstants (s : State) : State :=
  let s := { s with alphaA := alphaOf s.impl s.pTauA }
  let s := { s with betaA := Float.fsub Config.one s.alphaA }
  let s := { s with alphaR := alphaOf s.impl s.pTauR }
  { s with betaR := Float.fsub Config.one s.alphaR }

/-- The filter and mixer coefficients CONSTRUCT derives (R121, R126). -/
def deriveFilter (s : State) : State :=
  { s with
    gainLp := Float.fsqrt (Float.fmul Config.half s.pQ)
    minFreq := angular s.pMinF
    freqBw := angular (Float.fsub (Float.fmul Config.two s.pMaxF) s.pMinF)
    qc := s.pQ
    alphaMix := s.pMix
    betaMix := Float.fsub Config.one s.pMix }

/-- All seven datapath registers to +0.0 (R38, R121). -/
def clearDatapath (s : State) : State :=
  { s with
    rel := Config.zero
    att := Config.zero
    dly := Config.zero
    cf := Config.zero
    hp := Config.zero
    bp := Config.zero
    lp := Config.zero }

/-- The construction of a new Filter State from the parameter registers (R121, R122): the coefficients, the datapath
registers, and CFG_NONFINITE from the coefficients as just written. A second one in a row changes nothing, as V14 says,
where R78's list of idempotent commands leaves CONSTRUCT out (log entry 17). -/
def construct (s : State) : State :=
  updateCfgNonfinite (clearDatapath (deriveFilter (deriveTimeConstants s)))

/-- The six default tunables into the parameter registers (R31, R124). -/
def loadDefaults (s : State) : State :=
  { s with
    pTauA := Config.defaultTauA
    pTauR := Config.defaultTauR
    pMinF := Config.defaultMinF
    pMaxF := Config.defaultMaxF
    pQ := Config.defaultQ
    pMix := Config.defaultMix }

/-- What a clock edge with `rst` = 1 makes of the block (R220, R221): a default construction, STATUS at 0 with all its
bits (R44, R55; log entry 7 where R220 describes it in other words), RSPQ empty, and a command accepted at the next edge
with `rst` = 0. -/
def resetBlock (s : State) : State :=
  { construct (loadDefaults s) with
    errOp := false
    errIdx := false
    cfgNonfinite := false
    rspq := []
    busy := 0
    initialised := true }

end Sys2Proof.Machine
end

