-- ==== Sys2Proof/Machine/Configuration.lean ====
section
/-! DEFINITION. The configuration commands SETP, CONSTRUCT and DEFAULTS (40_configuration.md). -/

namespace Sys2Proof.Machine

/-- SETP (R120): one parameter register, or ERR_IDX. -/
def execSetp (idx : RegIdx) (data : F32) (s : State) : Host.Outcome State Fault Refusal :=
  match paramOfIdx idx with
  | some p => .next (writeParam p data s)
  | none => .next (setStatus .errIdx s)

/-- CONSTRUCT (R121). -/
def execConstruct (s : State) : Host.Outcome State Fault Refusal := .next (construct s)

/-- DEFAULTS (R124): the default tunables, then CONSTRUCT in full. -/
def execDefaults (s : State) : Host.Outcome State Fault Refusal := .next (construct (loadDefaults s))

end Sys2Proof.Machine
end

