-- ==== Sys2Proof/Machine/Control.lean ====
section
/-! DEFINITION. The control and observation commands NOP and PEEK and the two reserved opcodes (42_control.md). -/

namespace Sys2Proof.Machine

/-- NOP (R180): no state is read or written, no response. -/
def execNop (s : State) : Host.Outcome State Fault Refusal := .next s

/-- PEEK (R181): one PEEK response with the register's contents as they stand before the command; a reserved index
sets ERR_IDX and responds 0, and a second such PEEK changes no register (log entry 17 on R78). -/
def execPeek (idx : RegIdx) (s : State) : Host.Outcome State Fault Refusal :=
  match regOfIdx idx with
  | some r => .next (emit .peek (readReg r s) s)
  | none => .next (emit .peek 0x00000000#32 (setStatus .errIdx s))

/-- The reserved opcode 110 (R183): ERR_OP, nothing else; a second one changes no register (log entry 17 on R78). -/
def execReserved110 (s : State) : Host.Outcome State Fault Refusal := .next (setStatus .errOp s)

/-- The reserved opcode 111 (R183): ERR_OP, nothing else; a second one changes no register (log entry 17 on R78). -/
def execReserved111 (s : State) : Host.Outcome State Fault Refusal := .next (setStatus .errOp s)

end Sys2Proof.Machine
end

