-- ==== Sys2Proof/Machine/Process.lean ====
section
/-! DEFINITION. PROCESS and its five stages (41_process.md R140 to R146), each stage reading the registers as the
stages before it left them (R13, R141, R147). -/

namespace Sys2Proof.Machine

open Sys2Proof.Float

/-- `ApproxTan(c)` = c × (1 + c²/3) (R140, R144). -/
def approxTan (c : F32) : F32 := fmul c (fadd Config.one (fdiv (fmul c c) Config.three))

/-- `ApproxSin(c)` = c × (1 − c²/6) (R140, R145). -/
def approxSin (c : F32) : F32 := fmul c (fsub Config.one (fdiv (fmul c c) Config.six))

/-- The release stage's `y1`, from the REL of the sample before (R142 step 1). -/
def releaseY1 (xa : F32) (s : State) : F32 := fadd (fmul s.alphaR s.rel) (fmul s.betaR xa)

/-- The level detector (R142): REL, then ATT from the REL just written. -/
def levelDetector (xa : F32) (s : State) : State :=
  let s := { s with rel := fmax xa (releaseY1 xa s) }
  { s with att := fadd (fmul s.alphaA s.att) (fmul s.betaA s.rel) }

/-- The center-frequency mapper (R143), on the envelope ATT. -/
def mapper (s : State) : State := { s with cf := fadd (fmul s.att s.freqBw) s.minFreq }

/-- `b0` of the pre-lowpass (R144 steps 1 and 2). -/
def lowpassB0 (cf : F32) : F32 := fdiv (approxTan cf) (fadd (approxTan cf) Config.one)

/-- `a1` of the pre-lowpass (R144 step 2). -/
def lowpassA1 (cf : F32) : F32 := fmul Config.two (fsub (lowpassB0 cf) Config.half)

/-- `xh` of the pre-lowpass, from the DLY of the sample before (R144 step 3). -/
def lowpassXh (x : F32) (s : State) : F32 := fsub x (fmul (lowpassA1 s.cf) s.dly)

/-- The pre-lowpass's output `xf`, from the DLY of the sample before (R144 steps 3 and 4). -/
def preLowpassOut (x : F32) (s : State) : F32 :=
  fmul s.gainLp (fmul (lowpassB0 s.cf) (fadd (lowpassXh x s) s.dly))

/-- The pre-lowpass's update of DLY (R144 step 3). -/
def preLowpass (x : F32) (s : State) : State := { s with dly := lowpassXh x s }

/-- `f` of the state-variable filter (R145 step 1). -/
def svfF (cf : F32) : F32 := fmul Config.two (approxSin cf)

/-- The state-variable filter (R145): HP from the LP and BP of the sample before, then BP, then LP from the BP just
written. -/
def stateVariableFilter (xf : F32) (s : State) : State :=
  let s := { s with hp := fsub (fsub xf s.lp) (fmul s.qc s.bp) }
  let s := { s with bp := fadd s.bp (fmul (svfF s.cf) s.hp) }
  { s with lp := fadd s.lp (fmul (svfF s.cf) s.bp) }

/-- The mixer (R146), on the wet output BP and the raw sample. -/
def mixer (x : F32) (s : State) : F32 := fadd (fmul s.alphaMix s.bp) (fmul s.betaMix x)

/-- The registers after the five stages of one sample (R141). -/
def processRegs (x : F32) (s : State) : State :=
  let s := mapper (levelDetector (fabs x) s)
  stateVariableFilter (preLowpassOut x s) (preLowpass x s)

/-- PROCESS (R140): the five stages, then one SAMPLE response. -/
def execProcess (x : F32) (s : State) : Host.Outcome State Fault Refusal :=
  let s := processRegs x s
  .next (emit .sample (mixer x s) s)

end Sys2Proof.Machine
end

