-- ==== Sys2Proof/Machine/Dispatch.lean ====
section
/-! DEFINITION. One arm per command: the meaning it calls. -/

namespace Sys2Proof.Machine

def exec (i : Instr) (s : State) : Host.Outcome State Fault Refusal :=
  match i with
  -- 42_control.md R180
  | .nop => Sys2Proof.Machine.execNop s
  -- 40_configuration.md R120, R121, R124
  | .setp idx data => Sys2Proof.Machine.execSetp idx data s
  | .construct => Sys2Proof.Machine.execConstruct s
  | .defaults => Sys2Proof.Machine.execDefaults s
  -- 41_process.md R140
  | .process x => Sys2Proof.Machine.execProcess x s
  -- 42_control.md R181, R183
  | .peek idx => Sys2Proof.Machine.execPeek idx s
  | .reserved110 => Sys2Proof.Machine.execReserved110 s
  | .reserved111 => Sys2Proof.Machine.execReserved111 s

end Sys2Proof.Machine
end

