-- ==== Sys2Proof/Decode.lean ====
section
/-! DEFINITION. The decoder, total on every 40-bit word (R96), and after it the encoder (R103). Decoding uses OP
alone to choose the command (R96); a field a command does not use is ignored (R99). No 40-bit word is rejected:
the two reserved opcodes are commands with an effect of their own (R100, R183). -/

namespace Sys2Proof

/-- OP, bits 39:37 of a command word (R91). -/
def opField (w : CmdWord) : Opcode := w.extractLsb' 37 3

/-- IDX, bits 36:32 of a command word (R91). -/
def idxField (w : CmdWord) : RegIdx := w.extractLsb' 32 5

/-- DATA, bits 31:0 of a command word (R91). -/
def dataField (w : CmdWord) : F32 := w.extractLsb' 0 32

/-- The decoder (R96). -/
def decode (w : CmdWord) : Instr :=
  match (opField w).toNat with
  | 0 => .nop
  | 1 => .setp (idxField w) (dataField w)
  | 2 => .construct
  | 3 => .defaults
  | 4 => .process (dataField w)
  | 5 => .peek (idxField w)
  | 6 => .reserved110
  | _ => .reserved111

/-- The instruction the decoder reads from a word numbered as spec/opcode_table.json numbers it: bit 0 is the least
significant bit and every command is one 40-bit word (R94). A row of fewer bits has zeros above them; no command is
longer than 40 bits. -/
def tableWord (nbits w : Nat) : CmdWord := BitVec.ofNat 40 (w % 2 ^ nbits)

/-- The decoder on a table word. -/
def decodeTableWord (nbits w : Nat) : Option Instr :=
  if nbits ≤ 40 then some (decode (tableWord nbits w)) else none

/-- A command word from its three fields: `(OP << 37) | (IDX << 32) | DATA` (R103). -/
def cmdWord (op : Opcode) (idx : RegIdx) (data : F32) : CmdWord :=
  op.setWidth 40 <<< 37 ||| idx.setWidth 40 <<< 32 ||| data.setWidth 40

/-- The OP field of a command (R96). -/
def Instr.opcode : Instr → Opcode
  | .nop => 0b000#3
  | .setp _ _ => 0b001#3
  | .construct => 0b010#3
  | .defaults => 0b011#3
  | .process _ => 0b100#3
  | .peek _ => 0b101#3
  | .reserved110 => 0b110#3
  | .reserved111 => 0b111#3

/-- The encoder (R103); the fields a command does not use are 0, as the assembler of R104 writes them (R99). -/
def encode : Instr → CmdWord
  | .nop => cmdWord (Instr.opcode .nop) 0#5 0#32
  | .setp idx data => cmdWord (Instr.opcode (.setp idx data)) idx data
  | .construct => cmdWord (Instr.opcode .construct) 0#5 0#32
  | .defaults => cmdWord (Instr.opcode .defaults) 0#5 0#32
  | .process x => cmdWord (Instr.opcode (.process x)) 0#5 x
  | .peek idx => cmdWord (Instr.opcode (.peek idx)) idx 0#32
  | .reserved110 => cmdWord (Instr.opcode .reserved110) 0#5 0#32
  | .reserved111 => cmdWord (Instr.opcode .reserved111) 0#5 0#32

end Sys2Proof
end

