-- ==== Sys2Proof/Machine/Ports.lean ====
section
/-! DEFINITION. The ports (30_encoding.md R90, R92, R93; 70_reset_and_hazards.md R221): the outputs as functions of the
state, and what one rising edge of `clk` does around the command it accepts. -/

namespace Sys2Proof.Machine

/-- The response word of an entry of RSPQ: KIND in bit 32, DATA in bits 31:0 (R95). -/
def Response.word (r : Response) : RspWord :=
  BitVec.ofBool (match r.kind with | .sample => false | .peek => true) ++ r.data

/-- Is the response buffer full (R47, R76)? -/
def rspFull (s : State) : Bool :=
  match s.impl.rspRoomExtra with
  | none => false
  | some n => decide (n + 1 ≤ s.rspq.length)

/-- `cmd_ready` (R90, R76, R221): low during `rst`, while a command is still executing, and while the response buffer
is full. It does not depend on the command offered. -/
def cmdReady (rst : Bool) (s : State) : Bool := !rst && decide (s.busy = 0) && !rspFull s

/-- `rsp_valid` (R92, R221): the front response's command has completed, and `rst` is low. -/
def rspValid (rst : Bool) (s : State) : Bool :=
  !rst && match s.rspq with
    | [] => false
    | r :: _ => decide (r.wait = 0)

/-- `rsp_word` (R90, R95): the front of RSPQ, while `rsp_valid` is high. -/
def rspWord (rst : Bool) (s : State) : Option RspWord :=
  if rspValid rst s then s.rspq.head?.map Response.word else none

/-- `st_err_op` (R46, R90, R93). -/
def stErrOp (s : State) : Bool := s.errOp

/-- `st_err_idx` (R46, R90, R93). -/
def stErrIdx (s : State) : Bool := s.errIdx

/-- `st_cfg_nonfinite` (R46, R90, R93). -/
def stCfgNonfinite (s : State) : Bool := s.cfgNonfinite

/-- The inputs of an edge at which the host drives 0 on every port. -/
def idleEdge : PortEdge := { rst := false, cmdValid := false, cmdWord := 0#40, rspReady := false }

/-- The inputs at the coming clock edge. -/
def nextEdge (s : State) : PortEdge :=
  match s.inputs with
  | [] => idleEdge
  | e :: _ => e

/-- One clock edge less to wait (R10). -/
def Response.tick (r : Response) : Response := { r with wait := r.wait - 1 }

/-- The clock edge passes: its inputs are used up, and what waits for a later edge waits one edge less. -/
def tick (s : State) : State :=
  { s with inputs := s.inputs.tail, rspq := s.rspq.map Response.tick, busy := s.busy - 1 }

/-- The response transfer of an edge (R92): with `rsp_valid` and `rsp_ready`, the front of RSPQ is removed. -/
def takeResponse (e : PortEdge) (s : State) : State :=
  if rspValid e.rst s && e.rspReady then { s with rspq := s.rspq.tail } else s

/-- A command has been accepted: the next is accepted `II` edges later at the earliest (R10). -/
def beginCommand (s : State) : State := { s with busy := s.impl.iiExtra }

/-- What a clock edge comes to. -/
inductive EdgeAction where
  /-- No command transfers; the state after the edge. -/
  | quiet (s : State)
  /-- A command transfers (R92): the command, and the state it takes effect on. -/
  | accept (i : Instr) (s : State)
  /-- The edge is refused. -/
  | refuse (r : Refusal)

/-- One rising edge of `clk` (R92, R221, R222, R193): reset wins over everything else; before the first reset nothing
is answered; else the response transfer, and the command transfer when `cmd_valid` and `cmd_ready` are both high. Both
handshake outputs are those of the state before the edge. -/
def clockEdge (s : State) : EdgeAction :=
  let e := nextEdge s
  if e.rst then .quiet (resetBlock (tick s))
  else if !s.initialised then .refuse .beforeFirstReset
  else if e.cmdValid && cmdReady e.rst s then
    .accept (decode e.cmdWord) (beginCommand (tick (takeResponse e s)))
  else .quiet (tick (takeResponse e s))

/-- The inputs of an edge at which the host offers a command and nothing else. -/
def offerEdge (w : CmdWord) : PortEdge := { rst := false, cmdValid := true, cmdWord := w, rspReady := false }

/-- A response buffer with room for one entry more than `n`, where the buffer is bounded. -/
def widenRoom (n : Nat) (p : ImplParams) : ImplParams :=
  { p with rspRoomExtra := p.rspRoomExtra.map (max n) }

/-- `s` with a command offered at its next clock edge and accepted there: the block has been reset, no command is still
executing, and the response buffer has room (log entry 6). -/
def offerCommand (w : CmdWord) (s : State) : State :=
  { s with
    inputs := offerEdge w :: s.inputs
    busy := 0
    initialised := true
    impl := widenRoom s.rspq.length s.impl }

end Sys2Proof.Machine
end

