-- ==== Sys2Proof/Machine/Step.lean ====
section
/-! DEFINITION. One step: one rising edge of `clk` (30_encoding.md R90, R92). -/

namespace Sys2Proof.Machine

/-- One clock edge, with the effect of the command it accepts, if any (R74: the whole effect, at once). -/
def step (s : State) : Host.Outcome State Fault Refusal :=
  match clockEdge s with
  | .quiet t => .next t
  | .accept i t => exec i t
  | .refuse r => .refused r

/-- `s` with the instruction of a table word offered at the next clock edge, so that the next step runs it. -/
def State.withFetchWord (s : State) (nbits w : Nat) : State := offerCommand (tableWord nbits w) s

end Sys2Proof.Machine
end

