-- ==== Sys2Proof/Machine/Assembler.lean ====
section
/-! DEFINITION. The assembly of commands (30_encoding.md R104) and the pseudo-instructions (R105), on parsed operands:
what a value literal and a register name stand for, and the commands a pseudo-instruction expands to. -/

namespace Sys2Proof.Machine

/-- A `<value>` of R104. -/
inductive AsmValue where
  /-- A decimal literal ± `digits` × 10^`exp10`. -/
  | decimal (neg : Bool) (digits : Nat) (exp10 : Int)
  /-- `inf` or `-inf`. -/
  | infinity (neg : Bool)
  /-- `nan`. -/
  | nan
  /-- A bit pattern `0xHHHHHHHH`, taken as written. -/
  | bits (b : F32)
  deriving DecidableEq, Repr

/-- The pattern a `<value>` assembles to (R104): a decimal literal is converted to the nearest binary32, ties to
even. -/
def assembleValue : AsmValue → F32
  | .decimal neg digits exp10 =>
    Float.pack neg (Float.roundMag (digits * 10 ^ exp10.toNat * 2 ^ 149) (10 ^ (-exp10).toNat))
  | .infinity neg => if neg then Config.negInf else Config.posInf
  | .nan => Config.canonNaN
  | .bits b => b

/-- The index of a parameter register's name (R97). -/
def idxOfParam : ParamReg → RegIdx
  | .tauA => 0#5
  | .tauR => 1#5
  | .minF => 2#5
  | .maxF => 3#5
  | .q => 4#5
  | .mix => 5#5

/-- The index of a register's name (R97). -/
def idxOfReg : Reg → RegIdx
  | .param p => idxOfParam p
  | .alphaA => 6#5
  | .betaA => 7#5
  | .alphaR => 8#5
  | .betaR => 9#5
  | .gainLp => 10#5
  | .minFreq => 11#5
  | .freqBw => 12#5
  | .qc => 13#5
  | .alphaMix => 14#5
  | .betaMix => 15#5
  | .fs => 16#5
  | .rel => 17#5
  | .att => 18#5
  | .dly => 19#5
  | .cf => 20#5
  | .hp => 21#5
  | .bp => 22#5
  | .lp => 23#5
  | .status => 24#5

/-- A line of R104, its mnemonic and operands parsed; a numeric index is assembled as written. -/
inductive AsmLine where
  | nop
  | setp (r : ParamReg) (v : AsmValue)
  | setpNum (i : RegIdx) (v : AsmValue)
  | construct
  | defaults
  | process (v : AsmValue)
  | peek (r : Reg)
  | peekNum (i : RegIdx)
  deriving DecidableEq, Repr

/-- The command a line assembles to (R104). -/
def assemble : AsmLine → Instr
  | .nop => .nop
  | .setp r v => .setp (idxOfParam r) (assembleValue v)
  | .setpNum i v => .setp i (assembleValue v)
  | .construct => .construct
  | .defaults => .defaults
  | .process v => .process (assembleValue v)
  | .peek r => .peek (idxOfReg r)
  | .peekNum i => .peek i

/-- `CONFIG ta, tr, fmin, fmax, q, mix` (R105): the source's Construct. -/
def configCommands (ta tr fmin fmax q mix : F32) : List Instr :=
  [.setp 0#5 ta, .setp 1#5 tr, .setp 2#5 fmin, .setp 3#5 fmax, .setp 4#5 q, .setp 5#5 mix, .construct]

/-- `PEEKSTATE` (R105): the seven datapath registers. -/
def peekStateCommands : List Instr :=
  [.peek 17#5, .peek 18#5, .peek 19#5, .peek 20#5, .peek 21#5, .peek 22#5, .peek 23#5]

/-- `PEEKALL` (R105): the 25 registers in index order. -/
def peekAllCommands : List Instr := (List.range 25).map fun i => .peek (BitVec.ofNat 5 i)

/-- Commands one after another, each on the state the one before left (R74). -/
def execAll : List Instr → State → Host.Outcome State Fault Refusal
  | [], s => .next s
  | i :: rest, s =>
    match exec i s with
    | .next t => execAll rest t
    | .fault r => .fault r
    | .refused r => .refused r

end Sys2Proof.Machine
end

