-- ==== Sys2Proof/WellFormed.lean ====
section
/-! DEFINITION. Which commands are well formed: those that use a defined opcode and an index inside their command's
range (R96, R97, R100, R101). The spec gives an ill-formed command an effect too (it sets a STATUS bit, R120, R181,
R183), so being well formed is never a condition for a command to be encoded, decoded or executed; it is exactly
the condition under which a command records no error (R191). The types of the operands leave nothing else to
check: IDX is 5 bits and every 32-bit DATA is accepted (R98). -/

namespace Sys2Proof.Instr

/-- Is the opcode one of the two reserved ones (R100)? -/
def reservedOp : Instr → Bool
  | .nop => false
  | .setp _ _ => false
  | .construct => false
  | .defaults => false
  | .process _ => false
  | .peek _ => false
  | .reserved110 => true
  | .reserved111 => true

/-- Is the index outside the command's range: SETP with IDX ≥ 6, PEEK with IDX ≥ 25 (R101, R191)? -/
def badIndex : Instr → Bool
  | .nop => false
  | .setp idx _ => decide (6 ≤ idx.toNat)
  | .construct => false
  | .defaults => false
  | .process _ => false
  | .peek idx => decide (25 ≤ idx.toNat)
  | .reserved110 => false
  | .reserved111 => false

/-- A well-formed command: a defined opcode and an index inside its range. -/
def wellFormed (i : Instr) : Bool := !i.reservedOp && !i.badIndex

end Sys2Proof.Instr
end

