-- ==== Sys2Proof/Safety.lean ====
section
/-! DEFINITION. The terms claims about the block use: the classes of registers, what one state has in common with
another, correct rounding (00_scope.md R14), and the invariants of the block. -/

namespace Sys2Proof.Safety

open Sys2Proof.Machine

/-! ## Registers -/

/-- The ten coefficient registers CONSTRUCT writes (R34, R45). -/
def isCoefficient : Reg → Bool
  | .alphaA | .betaA | .alphaR | .betaR | .gainLp | .minFreq | .freqBw | .qc | .alphaMix | .betaMix => true
  | _ => false

/-- The seven datapath registers (R38). -/
def isDatapath : Reg → Bool
  | .rel | .att | .dly | .cf | .hp | .bp | .lp => true
  | _ => false

/-- The datapath registers that carry something from one sample to the next: all but CF and HP (R38, R52). -/
def carriesOver : Reg → Bool
  | .rel | .att | .dly | .bp | .lp => true
  | _ => false

/-- The registers of class `c` read the same in both states. -/
def Agree (c : Reg → Bool) (s t : State) : Prop := ∀ r, c r = true → readReg r t = readReg r s

/-- Everything the commands never touch: the timers of the ports, the reset flag, the inputs to come and the
implementation parameters. -/
def SameOutside (s t : State) : Prop :=
  t.busy = s.busy ∧ t.initialised = s.initialised ∧ t.inputs = s.inputs ∧ t.impl = s.impl

/-- What PEEK returns by index, 0 to 24, in the order of R97. -/
def peekTable (s : State) : List F32 :=
  [s.pTauA, s.pTauR, s.pMinF, s.pMaxF, s.pQ, s.pMix, s.alphaA, s.betaA, s.alphaR, s.betaR, s.gainLp, s.minFreq,
    s.freqBw, s.qc, s.alphaMix, s.betaMix, 0x472C4400#32, s.rel, s.att, s.dly, s.cf, s.hp, s.bp, s.lp, statusWord s]

/-- A binary32 value that is finite and greater than zero. -/
def finitePositive (a : F32) : Bool := Float.isFinite a && !Float.isZero a && !Float.sign a

/-- The caller contract on the tunables as they stand at a CONSTRUCT (R125). The model computes the rules' values
whether or not it holds; it is there for claims about the audio behaviour to take as a premise. -/
def CfgContract (s : State) : Prop :=
  finitePositive s.pTauA = true ∧ finitePositive s.pTauR = true ∧ Float.isFinite s.pMinF = true ∧
  Float.isFinite s.pMaxF = true ∧ finitePositive s.pQ = true ∧ Float.isFinite s.pMix = true

/-- A run is over (R202): every accepted command has taken effect and RSPQ is empty. A command takes effect at the edge
that accepts it (R74, log entry 2), so in every state the first holds. R202 does not say whether the host will send
further commands, so the inputs to come play no part, nor how long the block takes, so neither does the busy count. -/
def RunOver (s : State) : Prop := s.rspq = []

/-- The clock edge to come accepts command `i` (R92). -/
def Accepts (i : Instr) (s : State) : Prop :=
  (nextEdge s).rst = false ∧ (nextEdge s).cmdValid = true ∧ cmdReady false s = true ∧ decode (nextEdge s).cmdWord = i

/-- The SAMPLE responses RSPQ holds, in order. -/
def samples (s : State) : List F32 := (s.rspq.filter fun q => q.kind == .sample).map Response.data

/-! ## Correct rounding -/

/-- A magnitude from which on rounding to nearest gives an infinity, in units of 2^−149: the largest binary32 and half
a unit in its last place. -/
def overflowBound : Nat := (2 ^ 25 - 1) * 2 ^ 252

/-- `r` is the exact value `v`, in units of 2^−149, rounded to nearest, ties to even (R14): a magnitude too large gives
the signed infinity; else `r` is finite, no finite binary32 is nearer to `v`, and where another is as near `r` has an
even last bit; and a value that is not zero keeps its sign, also where it rounds to zero. -/
def RoundsTo (v : ℝ) (r : F32) : Prop :=
  ((overflowBound : ℝ) ≤ v → r = Config.posInf) ∧
  (v ≤ -(overflowBound : ℝ) → r = Config.negInf) ∧
  (|v| < (overflowBound : ℝ) → Float.isFinite r = true ∧ ∀ c : F32, Float.isFinite c = true →
    |(Float.val r : ℝ) - v| ≤ |(Float.val c : ℝ) - v| ∧
    (|(Float.val r : ℝ) - v| = |(Float.val c : ℝ) - v| → Float.val c ≠ Float.val r → r.toNat % 2 = 0)) ∧
  (v < 0 → Float.sign r = true) ∧ (0 < v → Float.sign r = false)

/-! ## ExpF -/

/-- What the spec assumes of `ExpF` (R21). -/
def ExpProperties (f : F32 → F32) : Prop :=
  (∀ a, Float.isNaN a = true → Float.isNaN (f a) = true) ∧
  f Config.negInf = Config.zero ∧ f Config.posInf = Config.posInf ∧
  f 0x00000000#32 = Config.one ∧ f 0x80000000#32 = Config.one ∧
  (∀ a, Float.isNaN a = false → Float.isNaN (f a) = false ∧ 0 ≤ Float.orderKey (f a))

/-! ## Invariants -/

/-- No NaN but the canonical one (R15, R150). -/
def canonical (a : F32) : Bool := !Float.isNaN a || a == Config.canonNaN

/-- The invariant of the Filter State: REL has no sign (R39), no datapath register and no SAMPLE response holds a NaN
other than the canonical one (R150), and CFG_NONFINITE tells whether a coefficient is a NaN or an infinity (R45), or it
is 0 and the coefficients are those of the default construction, as a reset leaves them (R55, R220; log entry 7: the two
differ only for an `ExpF` that is infinite at a default argument). -/
def FilterInv (s : State) : Prop :=
  Float.sign s.rel = false ∧
  (∀ r, isDatapath r = true → canonical (readReg r s) = true) ∧
  (∀ q ∈ s.rspq, q.kind = .sample → canonical q.data = true) ∧
  (s.cfgNonfinite = anyNonfinite s ∨
    s.cfgNonfinite = false ∧ Agree isCoefficient s (construct (loadDefaults s)))

/-- The invariant of the ports: an older response is never offered later than a younger one, no response waits longer
than `LATENCY` and no command longer than `II` (R10), and the response buffer holds at most its capacity (R76). -/
def ChannelInv (s : State) : Prop :=
  s.rspq.Pairwise (fun q q' => q.wait ≤ q'.wait) ∧
  (∀ q ∈ s.rspq, q.wait ≤ s.impl.latencyExtra) ∧
  s.busy ≤ s.impl.iiExtra ∧
  (∀ n, s.impl.rspRoomExtra = some n → s.rspq.length ≤ n + 1)

/-- Is a value a number from 0 to 1? -/
def inUnit (a : F32) : Bool :=
  !Float.isNaN a && decide (0 ≤ Float.orderKey a) && decide (Float.orderKey a ≤ Float.orderKey Config.one)

/-- The condition of R53 on an ALPHA: a number from 0.5 to 1. -/
def inUpperHalf (a : F32) : Bool := inUnit a && decide (Float.orderKey Config.half ≤ Float.orderKey a)

/-- The invariant of the envelope: each BETA is the complement of its ALPHA (R34), and where both ALPHAs lie in
[0.5, 1], REL and ATT lie in [0, 1] (R53). -/
def EnvelopeInv (s : State) : Prop :=
  s.betaA = Float.fsub Config.one s.alphaA ∧ s.betaR = Float.fsub Config.one s.alphaR ∧
  (inUpperHalf s.alphaA = true → inUpperHalf s.alphaR = true → inUnit s.rel = true ∧ inUnit s.att = true)

end Sys2Proof.Safety
end

