-- ==== Sys2Proof/Certificates/Slice0/Obligations.lean ====
section
/-! DEFINITION. The statements about the block, each formalising rules of spec/. -/

open Sys2Proof Sys2Proof.Machine Sys2Proof.Float Sys2Proof.Safety

/-! ## Commands and their words (30_encoding.md) -/

/-- Words of 95_test_vectors.md V15 and of R103, with the commands they stand for. -/
def Obligations.ListedWordsDecode : Prop :=
  decode 0x0000000000#40 = .nop ∧ decode 0x1FFFFFFFFF#40 = .nop ∧
  decode 0x2000000000#40 = .setp 0#5 0x00000000#32 ∧ decode 0x243E4CCCCD#40 = .setp 4#5 0x3E4CCCCD#32 ∧
  decode 0x2500000000#40 = .setp 5#5 0#32 ∧ decode 0x3F3F800000#40 = .setp 31#5 0x3F800000#32 ∧
  decode 0x4000000000#40 = .construct ∧ decode 0x5FFFFFFFFF#40 = .construct ∧
  decode 0x6000000000#40 = .defaults ∧
  decode 0x803F800000#40 = .process 0x3F800000#32 ∧ decode 0x9FBF800000#40 = .process 0xBF800000#32 ∧
  decode 0xA000000000#40 = .peek 0#5 ∧ decode 0xB200000000#40 = .peek 18#5 ∧ decode 0xBFFFFFFFFF#40 = .peek 31#5 ∧
  decode 0xC000000000#40 = .reserved110 ∧ decode 0xFFFFFFFFFF#40 = .reserved111

/-- Decoding inverts encoding, for every command and every operand. -/
def Obligations.DecodeInvertsEncode : Prop := ∀ i : Instr, decode (encode i) = i

/-- Encoding what was decoded keeps OP and the fields the command uses, and clears the others (R96, R99). -/
def Obligations.EncodeKeepsUsedFields : Prop := ∀ w : CmdWord,
  opField (encode (decode w)) = opField w ∧
  idxField (encode (decode w)) = (if opField w = 0b001#3 ∨ opField w = 0b101#3 then idxField w else 0#5) ∧
  dataField (encode (decode w)) = (if opField w = 0b001#3 ∨ opField w = 0b100#3 then dataField w else 0#32)

/-- R102: a word matches a row of the opcode table exactly when it decodes to the row's command, and it matches exactly
one row. -/
def Obligations.OpcodeRowsPartitionWords : Prop := ∀ w : CmdWord,
  (w &&& 0xE000000000#40 = 0x0000000000#40 ↔ decode w = .nop) ∧
  (w &&& 0xE000000000#40 = 0x2000000000#40 ↔ decode w = .setp (idxField w) (dataField w)) ∧
  (w &&& 0xE000000000#40 = 0x4000000000#40 ↔ decode w = .construct) ∧
  (w &&& 0xE000000000#40 = 0x6000000000#40 ↔ decode w = .defaults) ∧
  (w &&& 0xE000000000#40 = 0x8000000000#40 ↔ decode w = .process (dataField w)) ∧
  (w &&& 0xE000000000#40 = 0xA000000000#40 ↔ decode w = .peek (idxField w)) ∧
  (w &&& 0xE000000000#40 = 0xC000000000#40 ↔ decode w = .reserved110) ∧
  (w &&& 0xE000000000#40 = 0xE000000000#40 ↔ decode w = .reserved111) ∧
  ∃! m, m ∈ [0x0000000000#40, 0x2000000000#40, 0x4000000000#40, 0x6000000000#40, 0x8000000000#40, 0xA000000000#40,
    0xC000000000#40, 0xE000000000#40] ∧ w &&& 0xE000000000#40 = m

/-- R99: two words with one OP that agree on the fields their command uses behave the same in every state, and the
encoder writes the unused fields as 0. -/
def Obligations.UnusedFieldsAreIgnored : Prop :=
  (∀ w w' : CmdWord, opField w = opField w' →
    (opField w = 0b001#3 ∨ opField w = 0b101#3 → idxField w = idxField w') →
    (opField w = 0b001#3 ∨ opField w = 0b100#3 → dataField w = dataField w') →
    ∀ s, exec (decode w) s = exec (decode w') s) ∧
  (∀ i ∈ [Instr.nop, .construct, .defaults, .reserved110, .reserved111],
    idxField (encode i) = 0#5 ∧ dataField (encode i) = 0#32) ∧
  (∀ x, idxField (encode (.process x)) = 0#5) ∧ (∀ idx, dataField (encode (.peek idx)) = 0#32)

/-- R103: a command word is OP × 2^37 + IDX × 2^32 + DATA, the word of each command has its own OP, its operands in
their fields and 0 in the fields it does not use, and the rule's four examples come out. -/
def Obligations.CommandWordFormula : Prop :=
  (∀ (op : Opcode) (idx : RegIdx) (data : F32),
    (cmdWord op idx data).toNat = op.toNat * 2 ^ 37 + idx.toNat * 2 ^ 32 + data.toNat) ∧
  encode .nop = cmdWord 0b000#3 0#5 0#32 ∧
  (∀ idx data, encode (.setp idx data) = cmdWord 0b001#3 idx data) ∧
  encode .construct = cmdWord 0b010#3 0#5 0#32 ∧
  encode .defaults = cmdWord 0b011#3 0#5 0#32 ∧
  (∀ x, encode (.process x) = cmdWord 0b100#3 0#5 x) ∧
  (∀ idx, encode (.peek idx) = cmdWord 0b101#3 idx 0#32) ∧
  encode .reserved110 = cmdWord 0b110#3 0#5 0#32 ∧
  encode .reserved111 = cmdWord 0b111#3 0#5 0#32 ∧
  encode (.process 0x3F800000#32) = 0x803F800000#40 ∧ encode (.setp 5#5 0#32) = 0x2500000000#40 ∧
  encode .construct = 0x4000000000#40 ∧ encode (.peek 18#5) = 0xB200000000#40

/-! ## The ports and the clock edge (30_encoding.md R90, R92; 20_memory.md R76; 70_reset_and_hazards.md) -/

/-- A clock edge at which a command is offered and accepted runs the decoded command (R92, R96), on the state the response
transfer, the passing of the edge and the start of the busy count leave. That the command takes effect at this edge, and
the order of the three before it, are DEDUCED (log entries 2 and 12); that the busy count starts at exactly II − 1 is the
model's DESIGN CHOICE (log entry 2). -/
def Obligations.StepRunsAcceptedCommand : Prop := ∀ s : State,
  s.initialised = true → (nextEdge s).rst = false → (nextEdge s).cmdValid = true → cmdReady false s = true →
  step s = exec (decode (nextEdge s).cmdWord) (beginCommand (tick (takeResponse (nextEdge s) s)))

/-- The next step of a state with a fetch word runs exactly that word's command. How a word is placed is the model's
(log entry 6), and so are, in the state it runs on, the edge that has passed before the command (log entry 12, DEDUCED)
and the busy count that starts at exactly II − 1 (log entry 2, DESIGN CHOICE). -/
def Obligations.OfferedWordRunsNext : Prop := ∀ (s : State) (w : Nat),
  step (s.withFetchWord 40 w) = exec (decode (BitVec.ofNat 40 w))
    { s with
      rspq := s.rspq.map Response.tick
      busy := s.impl.iiExtra
      initialised := true
      impl := widenRoom s.rspq.length s.impl }

/-- A command that is not accepted (none offered, the block still executing, or the response buffer full) changes no
register: only the response transfer and the passing of the edge take place (R76, R92). -/
def Obligations.WaitingChangesNoRegister : Prop := ∀ s : State,
  s.initialised = true → (nextEdge s).rst = false → ((nextEdge s).cmdValid && cmdReady false s) = false →
  ∃ t, step s = .next t ∧ (∀ r, readReg r t = readReg r s) ∧ t.impl = s.impl ∧ t.inputs = s.inputs.tail ∧
    t.rspq = ((if rspValid false s && (nextEdge s).rspReady then s.rspq.tail else s.rspq).map Response.tick)

/-- RSPQ is a queue (R47, R77): an edge removes at most its front, exactly when `rsp_valid` and `rsp_ready` are both high,
and appends at most one response, and only for an accepted command. -/
def Obligations.ResponsesFormAQueue : Prop := ∀ s t : State,
  step s = .next t → (nextEdge s).rst = false →
  ∃ new : List Response,
    t.rspq = (if rspValid false s && (nextEdge s).rspReady then s.rspq.tail else s.rspq).map Response.tick ++ new ∧
    new.length ≤ 1 ∧ (new ≠ [] → (nextEdge s).cmdValid = true ∧ cmdReady false s = true)

/-- The word offered is the front response's, KIND in bit 32 and DATA in bits 31:0 (R95), and a response that is offered
and not taken is still offered, unchanged, after the edge (R92). -/
def Obligations.OfferedResponseIsHeld : Prop :=
  (∀ (s : State) (q : Response) (rest : List Response), s.rspq = q :: rest → q.wait = 0 →
    rspValid false s = true ∧ ∃ w, rspWord false s = some w ∧
      w.getLsbD 32 = (match q.kind with | .sample => false | .peek => true) ∧ w.extractLsb' 0 32 = q.data) ∧
  (∀ s t : State,
    step s = .next t → (nextEdge s).rst = false → rspValid false s = true → (nextEdge s).rspReady = false →
    rspValid false t = true ∧ rspWord false t = rspWord false s)

/-- While the host is idle, the front response is offered after exactly the edges it has to wait (R10, R92). -/
def Obligations.ResponseOfferedWhenItsWaitEnds : Prop := ∀ (s : State) (q : Response) (rest : List Response),
  s.initialised = true → s.inputs = [] → s.rspq = q :: rest →
  (∀ m, m < q.wait → ∃ t, core.run m s = .next t ∧ rspValid false t = false) ∧
  ∃ t, core.run q.wait s = .next t ∧ rspValid false t = true

/-- While the host is idle and the response buffer has room, `cmd_ready` rises after exactly the edges the block is still
busy (R10, R76). -/
def Obligations.ReadyAgainWhenExecutionEnds : Prop := ∀ s : State,
  s.initialised = true → s.inputs = [] → rspFull s = false →
  (∀ m, m < s.busy → ∃ t, core.run m s = .next t ∧ cmdReady false t = false) ∧
  ∃ t, core.run s.busy s = .next t ∧ cmdReady false t = true

/-- R46, R93: the three status ports show the STATUS bits, and an edge that neither resets the block nor accepts a command
changes none of them. The second clause rests on log entry 12 (DEDUCED): R93 has a port change at the edge at which a
command takes effect, and in the model that is the edge that accepts it. -/
def Obligations.StatusPortsShowStatus : Prop :=
  (∀ s : State, stErrOp s = (readReg .status s).getLsbD 0 ∧ stErrIdx s = (readReg .status s).getLsbD 1 ∧
    stCfgNonfinite s = (readReg .status s).getLsbD 2) ∧
  (∀ s t : State, step s = .next t → (nextEdge s).rst = false → ((nextEdge s).cmdValid && cmdReady false s) = false →
    stErrOp t = stErrOp s ∧ stErrIdx t = stErrIdx s ∧ stCfgNonfinite t = stCfgNonfinite s)

/-- R220: an edge with `rst` = 1 sets every piece of state, whatever it was. The registers but STATUS become those of
DEFAULTS, STATUS reads 0 with all its bits, RSPQ is empty; a block with the reference `ExpF` is then as State.reset has
it. For an `ExpF` that is infinite at a default argument CFG_NONFINITE is 0 too, where R220's second description, "that of
DEFAULTS plus the clearing of ERR_OP and ERR_IDX", would leave 1 (log entry 7, DEDUCED). -/
def Obligations.ResetEdgeSetsEverything : Prop := ∀ s : State, (nextEdge s).rst = true →
  ∃ t, step s = .next t ∧
    (∀ u, exec .defaults s = .next u → ∀ r, r ≠ .status → readReg r t = readReg r u) ∧
    readReg .status t = 0x00000000#32 ∧ t.errOp = false ∧ t.errIdx = false ∧ t.cfgNonfinite = false ∧ t.rspq = [] ∧
    cmdReady false t = true ∧ t.inputs = s.inputs.tail ∧ t.impl = s.impl ∧
    (s.impl.expPoints = [] → t = { State.reset with inputs := s.inputs.tail, impl := s.impl })

/-- During `rst` = 1 nothing is ready and nothing is valid (R221), so the command on offer does not transfer (R193). That
`rsp_word` answers no word then is the model's DESIGN CHOICE (log entry 11). -/
def Obligations.NothingTransfersDuringReset : Prop := ∀ s : State,
  cmdReady true s = false ∧ rspValid true s = false ∧ rspWord true s = none ∧
  ((nextEdge s).rst = true → ∀ e : PortEdge, e.rst = true →
    step s = step { s with inputs := e :: s.inputs.tail })

/-- Before the first reset the model refuses every edge without `rst`; an edge with `rst` ends that time (R222). -/
def Obligations.RefusesBeforeFirstReset : Prop := ∀ s : State, s.initialised = false →
  ((nextEdge s).rst = false → step s = .refused .beforeFirstReset) ∧
  ((nextEdge s).rst = true → ∃ t, step s = .next t ∧ t.initialised = true)

/-- The reset state, value by value, as R55 lists it. -/
def Obligations.ResetValues : Prop :=
  peekTable State.reset =
    [0x3D23D70A#32, 0x3B03126F#32, 0x41A00000#32, 0x453B8000#32, 0x3E4CCCCD#32, 0x3F800000#32, 0x3F7FDADC#32,
      0x3A149000#32, 0x3F7D1D28#32, 0x3C38B600#32, 0x3EA1E89B#32, 0x3ABABEF7#32, 0x3EDA1D0B#32, 0x3E4CCCCD#32,
      0x3F800000#32, 0#32, 0x472C4400#32, 0#32, 0#32, 0#32, 0#32, 0#32, 0#32, 0#32, 0#32] ∧
  State.reset.rspq = []

/-! ## Invariants -/

/-- The three invariants hold at reset. -/
def Obligations.ResetMeetsInvariants : Prop :=
  FilterInv State.reset ∧ ChannelInv State.reset ∧ EnvelopeInv State.reset

/-- Every clock edge keeps the invariant of the Filter State (R39, R45, R150), from every state that meets it. In the
invariant, that CFG_NONFINITE is 0 after a reset whatever the coefficients rests on log entry 7 (DEDUCED). -/
def Obligations.StepKeepsFilterInv : Prop := ∀ s t : State, FilterInv s → step s = .next t → FilterInv t

/-- Every clock edge keeps the invariant of the ports, from every state that meets it. That no busy count exceeds II − 1
and no wait LATENCY − 1 holds because the model stalls no longer than those (log entry 2: DESIGN CHOICE for II, which R10
gives as a minimum, DEDUCED for LATENCY). -/
def Obligations.StepKeepsChannelInv : Prop := ∀ s t : State, ChannelInv s → step s = .next t → ChannelInv t

/-! ## Rules of the whole machine -/

/-- R190: no command, input or coefficient value stops the block: every command completes and leaves the ports ready for
later commands as they were, and every edge after a reset is answered. -/
def Obligations.BlockNeverTraps : Prop :=
  (∀ (i : Instr) (s : State), ∃ t, exec i s = .next t ∧ SameOutside s t) ∧
  (∀ s : State, s.initialised = true → ∃ t, step s = .next t ∧ t.initialised = true)

/-- R195: ERR_OP and ERR_IDX stay set at every edge without `rst`. -/
def Obligations.ErrorBitsAreSticky : Prop := ∀ s t : State,
  step s = .next t → (nextEdge s).rst = false →
  (s.errOp = true → t.errOp = true) ∧ (s.errIdx = true → t.errIdx = true)

/-- R191, R193: a command sets ERR_OP exactly when its opcode is reserved and ERR_IDX exactly when its index is out of
range, and never both; a well-formed command sets neither. -/
def Obligations.ErrorsAreExact : Prop := ∀ (i : Instr) (s t : State), exec i s = .next t →
  t.errOp = (s.errOp || i.reservedOp) ∧ t.errIdx = (s.errIdx || i.badIndex) ∧
  (i.reservedOp && i.badIndex) = false ∧
  (i.wellFormed = true → t.errOp = s.errOp ∧ t.errIdx = s.errIdx)

/-- R45: after a CONSTRUCT or DEFAULTS, CFG_NONFINITE is 1 exactly when a coefficient just written is a NaN or an
infinity; every other command leaves it. -/
def Obligations.CfgNonfiniteReflectsConstruction : Prop := ∀ (i : Instr) (s t : State), exec i s = .next t →
  (i = .construct ∨ i = .defaults →
    (t.cfgNonfinite = true ↔ ∃ r, isCoefficient r = true ∧ (isNaN (readReg r t) = true ∨ isInf (readReg r t) = true))) ∧
  (i ≠ .construct → i ≠ .defaults → t.cfgNonfinite = s.cfgNonfinite)

/-- R48: a PROCESS appends exactly one SAMPLE response, a PEEK exactly one PEEK response, any other command none. -/
def Obligations.OneResponsePerProcessOrPeek : Prop := ∀ (i : Instr) (s t : State), exec i s = .next t →
  (∀ x, i = .process x → ∃ d, t.rspq = s.rspq ++ [⟨.sample, d, s.impl.latencyExtra⟩]) ∧
  (∀ idx, i = .peek idx → ∃ d, t.rspq = s.rspq ++ [⟨.peek, d, s.impl.latencyExtra⟩]) ∧
  ((∀ x, i ≠ .process x) → (∀ idx, i ≠ .peek idx) → t.rspq = s.rspq)

/-- R32: only SETP of its own index and DEFAULTS change a parameter register. -/
def Obligations.ParametersChangeOnlyBySetpOrDefaults : Prop := ∀ (i : Instr) (s t : State) (p : ParamReg),
  exec i s = .next t → readParam p t ≠ readParam p s → (∃ d, i = .setp (idxOfParam p) d) ∨ i = .defaults

/-- R36: only CONSTRUCT and DEFAULTS change a coefficient register. -/
def Obligations.CoefficientsChangeOnlyByConstruction : Prop := ∀ (i : Instr) (s t : State),
  exec i s = .next t → i ≠ .construct → i ≠ .defaults → Agree isCoefficient s t

/-- R54: only PROCESS, CONSTRUCT and DEFAULTS change a datapath register. -/
def Obligations.DatapathPersistsBetweenSamples : Prop := ∀ (i : Instr) (s t : State),
  exec i s = .next t → (∀ x, i ≠ .process x) → i ≠ .construct → i ≠ .defaults → Agree isDatapath s t

/-! ## NOP, PEEK and the reserved opcodes (42_control.md) -/

/-- R180: NOP changes nothing and emits nothing; its word is any with OP = 000. -/
def Obligations.NopDoesNothing : Prop :=
  (∀ s : State, exec .nop s = .next s) ∧ (∀ w : CmdWord, opField w = 0b000#3 → decode w = .nop)

/-- R181: PEEK of index 0 to 24 emits that register's pattern and changes nothing else; a reserved index emits 0 and sets
ERR_IDX. -/
def Obligations.PeekReadsRegister : Prop := ∀ (idx : RegIdx) (s : State),
  (idx.toNat ≤ 24 → exec (.peek idx) s = .next { s with
    rspq := s.rspq ++ [⟨.peek, (peekTable s).getD idx.toNat 0#32, s.impl.latencyExtra⟩] }) ∧
  (25 ≤ idx.toNat → exec (.peek idx) s = .next { s with
    errIdx := true
    rspq := s.rspq ++ [⟨.peek, 0x00000000#32, s.impl.latencyExtra⟩] })

/-- R182: the word PEEK 24 returns has ERR_OP in bit 0, ERR_IDX in bit 1, CFG_NONFINITE in bit 2 and 0 above, as the bits
stand before the PEEK, which changes none of them. -/
def Obligations.StatusWordBits : Prop := ∀ s : State, ∃ t d, exec (.peek 24#5) s = .next t ∧
  t.rspq = s.rspq ++ [⟨.peek, d, s.impl.latencyExtra⟩] ∧
  d.getLsbD 0 = s.errOp ∧ d.getLsbD 1 = s.errIdx ∧ d.getLsbD 2 = s.cfgNonfinite ∧
  (∀ n, 3 ≤ n → d.getLsbD n = false) ∧
  t.errOp = s.errOp ∧ t.errIdx = s.errIdx ∧ t.cfgNonfinite = s.cfgNonfinite

/-- R181: a PEEK, of whatever index, changes no later result, whatever commands follow it: after them every register
reads as without the PEEK but for the ERR_IDX bit of STATUS, and the SAMPLE responses are the same. -/
def Obligations.PeekChangesNoLaterSample : Prop := ∀ (idx : RegIdx) (cs : List Instr) (s t u v : State),
  exec (.peek idx) s = .next t → execAll cs t = .next u → execAll cs s = .next v →
  (∀ r, r ≠ .status → readReg r u = readReg r v) ∧
  u.errOp = v.errOp ∧ u.cfgNonfinite = v.cfgNonfinite ∧ samples u = samples v

/-- R183: a reserved opcode sets ERR_OP and does nothing else; the rule's example. -/
def Obligations.ReservedOpcodeSetsErrOp : Prop :=
  (∀ s : State, exec .reserved110 s = .next { s with errOp := true } ∧
    exec .reserved111 s = .next { s with errOp := true }) ∧
  (∀ w : CmdWord, opField w = 0b110#3 → decode w = .reserved110) ∧
  (∀ w : CmdWord, opField w = 0b111#3 → decode w = .reserved111) ∧
  ∃ t, execAll [decode 0xC000000000#40, decode 0xB800000000#40] State.reset = .next t ∧
    t.rspq.map Response.data = [0x00000001#32]

/-! ## SETP, CONSTRUCT and DEFAULTS (40_configuration.md) -/

/-- R120: SETP of index 0 to 5 stores DATA bit for bit in that parameter register and changes nothing else; of index 6
to 31 it sets ERR_IDX and writes no register. -/
def Obligations.SetpWritesOneParameter : Prop :=
  (∀ (v : F32) (s : State),
    exec (.setp 0#5 v) s = .next { s with pTauA := v } ∧ exec (.setp 1#5 v) s = .next { s with pTauR := v } ∧
    exec (.setp 2#5 v) s = .next { s with pMinF := v } ∧ exec (.setp 3#5 v) s = .next { s with pMaxF := v } ∧
    exec (.setp 4#5 v) s = .next { s with pQ := v } ∧ exec (.setp 5#5 v) s = .next { s with pMix := v }) ∧
  (∀ (idx : RegIdx) (v : F32) (s : State), 6 ≤ idx.toNat → exec (.setp idx v) s = .next { s with errIdx := true }) ∧
  (∀ w : CmdWord, opField w = 0b001#3 → decode w = .setp (idxField w) (dataField w)) ∧
  decode 0x2500000000#40 = .setp 5#5 0#32

/-- R121: CONSTRUCT writes the ten coefficients by the rule's formulas, zeroes the datapath registers and writes
CFG_NONFINITE; it changes nothing else; the rule's example, from the default parameters with the reference `ExpF` (no point
at which `ExpF` differs from it). -/
def Obligations.ConstructDerivesCoefficients : Prop :=
  (∀ s : State, ∃ t, exec .construct s = .next t ∧
    t = { s with
      alphaA := expF s.impl (fdiv 0xBF800000#32 (fmul s.pTauA 0x472C4400#32))
      betaA := fsub 0x3F800000#32 t.alphaA
      alphaR := expF s.impl (fdiv 0xBF800000#32 (fmul s.pTauR 0x472C4400#32))
      betaR := fsub 0x3F800000#32 t.alphaR
      gainLp := fsqrt (fmul 0x3F000000#32 s.pQ)
      minFreq := fdiv (fmul 0x40490FDB#32 s.pMinF) 0x472C4400#32
      freqBw := fdiv (fmul 0x40490FDB#32 (fsub (fmul 0x40000000#32 s.pMaxF) s.pMinF)) 0x472C4400#32
      qc := s.pQ
      alphaMix := s.pMix
      betaMix := fsub 0x3F800000#32 s.pMix
      rel := 0#32, att := 0#32, dly := 0#32, cf := 0#32, hp := 0#32, bp := 0#32, lp := 0#32
      cfgNonfinite := decide (∃ a ∈ [t.alphaA, t.betaA, t.alphaR, t.betaR, t.gainLp, t.minFreq, t.freqBw, t.qc,
        t.alphaMix, t.betaMix], isNaN a = true ∨ isInf a = true) }) ∧
  (∀ w : CmdWord, opField w = 0b010#3 → decode w = .construct) ∧
  (∀ s : State, s.impl.expPoints = [] → ∃ t,
    exec .construct { s with
      pTauA := 0x3D23D70A#32, pTauR := 0x3B03126F#32, pMinF := 0x41A00000#32, pMaxF := 0x453B8000#32
      pQ := 0x3E4CCCCD#32, pMix := 0x3F800000#32 } = .next t ∧
    t.alphaA = 0x3F7FDADC#32 ∧ t.betaA = 0x3A149000#32 ∧ t.alphaR = 0x3F7D1D28#32 ∧ t.betaR = 0x3C38B600#32 ∧
    t.gainLp = 0x3EA1E89B#32 ∧ t.minFreq = 0x3ABABEF7#32 ∧ t.freqBw = 0x3EDA1D0B#32 ∧ t.qc = 0x3E4CCCCD#32 ∧
    t.alphaMix = 0x3F800000#32 ∧ t.betaMix = 0x00000000#32 ∧ t.cfgNonfinite = false)

/-- R122, R226: a construction is a function of the parameter registers and `ExpF` alone: nothing of the Filter State
before it survives. -/
def Obligations.ConstructForgetsFilterState : Prop := ∀ s s' t t' : State,
  (∀ p, readParam p s' = readParam p s) → s'.impl.expPoints = s.impl.expPoints →
  exec .construct s = .next t → exec .construct s' = .next t' →
  Agree isCoefficient t t' ∧ Agree isDatapath t t' ∧ t'.cfgNonfinite = t.cfgNonfinite

/-- R124: DEFAULTS loads the six default tunables and then performs CONSTRUCT in full; it is idempotent; and with the
reference `ExpF` it leaves, after any history, every register as reset does but the error bits and RSPQ. -/
def Obligations.DefaultsIsADefaultConstruction : Prop :=
  (∀ s : State, ∃ t, exec .defaults s = .next t ∧ exec .construct { s with
    pTauA := 0x3D23D70A#32, pTauR := 0x3B03126F#32, pMinF := 0x41A00000#32, pMaxF := 0x453B8000#32
    pQ := 0x3E4CCCCD#32, pMix := 0x3F800000#32 } = .next t) ∧
  (∀ s t : State, exec .defaults s = .next t → exec .defaults t = .next t) ∧
  (∀ w : CmdWord, opField w = 0b011#3 → decode w = .defaults) ∧
  (∀ s : State, s.impl.expPoints = [] → exec .defaults s = .next { State.reset with
    errOp := s.errOp, errIdx := s.errIdx, rspq := s.rspq, busy := s.busy, initialised := s.initialised
    inputs := s.inputs, impl := s.impl })

/-- R105: the pseudo-instruction CONFIG is the source's Construct: its seven commands end as one CONSTRUCT from the six
tunables does. -/
def Obligations.ConfigRealisesConstruct : Prop := ∀ (ta tr fmin fmax q mix : F32) (s : State),
  ∃ t, execAll (configCommands ta tr fmin fmax q mix) s = .next t ∧
    exec .construct { s with pTauA := ta, pTauR := tr, pMinF := fmin, pMaxF := fmax, pQ := q, pMix := mix } = .next t

/-- R123, the rows about τ that hold for every `ExpF`: the attack and the release coefficients of τ = +0, −0, +∞ and NaN. -/
def Obligations.DegenerateTimeConstants : Prop := ∀ s t : State, exec .construct s = .next t →
  (s.pTauA = 0x00000000#32 → t.alphaA = 0#32 ∧ t.betaA = 0x3F800000#32) ∧
  (s.pTauA = 0x80000000#32 → t.alphaA = 0x7F800000#32 ∧ t.betaA = 0xFF800000#32 ∧ t.cfgNonfinite = true) ∧
  (s.pTauA = 0x7F800000#32 → t.alphaA = 0x3F800000#32 ∧ t.betaA = 0#32) ∧
  (isNaN s.pTauA = true → isNaN t.alphaA = true ∧ t.betaA = 0x7FC00000#32 ∧ t.cfgNonfinite = true) ∧
  (s.pTauR = 0x00000000#32 → t.alphaR = 0#32 ∧ t.betaR = 0x3F800000#32) ∧
  (s.pTauR = 0x80000000#32 → t.alphaR = 0x7F800000#32 ∧ t.betaR = 0xFF800000#32 ∧ t.cfgNonfinite = true) ∧
  (s.pTauR = 0x7F800000#32 → t.alphaR = 0x3F800000#32 ∧ t.betaR = 0#32) ∧
  (isNaN s.pTauR = true → isNaN t.alphaR = true ∧ t.betaR = 0x7FC00000#32 ∧ t.cfgNonfinite = true)

/-- R123, the rows about q and the mix ratio: a negative q makes GAIN_LP the canonical NaN and sets CFG_NONFINITE (but
for q = −2^−149, which `fmul(0.5f, q)` rounds to −0: log entry 5), q = +0 makes GAIN_LP +0, and any mix ratio is used as
given. -/
def Obligations.DegenerateQAndMix : Prop := ∀ s t : State, exec .construct s = .next t →
  (sign s.pQ = true → isNaN s.pQ = false → isZero s.pQ = false → s.pQ ≠ 0x80000001#32 →
    t.gainLp = 0x7FC00000#32 ∧ t.cfgNonfinite = true) ∧
  (s.pQ = 0x80000001#32 → t.gainLp = 0x80000000#32) ∧
  (s.pQ = 0x00000000#32 → t.gainLp = 0#32) ∧
  t.qc = s.pQ ∧ t.alphaMix = s.pMix ∧ t.betaMix = fsub 0x3F800000#32 s.pMix

/-- R21: every implementation's `ExpF` has the properties the spec assumes. -/
def Obligations.ExpFHasItsProperties : Prop := ∀ p : ImplParams, ExpProperties (expF p)

/-- R10, R21: the parameter leaves nothing out: every function with those properties is the `ExpF` of some
implementation. -/
def Obligations.EveryAdmissibleExpFIsModelled : Prop := ∀ (f : F32 → F32) (p : ImplParams), ExpProperties f →
  ∃ points : List (F32 × F32), ∀ a, expF { p with expPoints := points } a = f a

/-! ## PROCESS (41_process.md) -/

/-- R140: PROCESS computes the rule's chain, writes the seven datapath registers, emits one SAMPLE and changes nothing
else; the rule's example. -/
def Obligations.ProcessComputesItsChain : Prop :=
  (∀ (x : F32) (s : State),
    let xa := fabs x
    let y1 := fadd (fmul s.alphaR s.rel) (fmul s.betaR xa)
    let rel := fmax xa y1
    let att := fadd (fmul s.alphaA s.att) (fmul s.betaA rel)
    let cf := fadd (fmul att s.freqBw) s.minFreq
    let k := fmul cf (fadd 0x3F800000#32 (fdiv (fmul cf cf) 0x40400000#32))
    let b0 := fdiv k (fadd k 0x3F800000#32)
    let a1 := fmul 0x40000000#32 (fsub b0 0x3F000000#32)
    let xh := fsub x (fmul a1 s.dly)
    let y := fmul b0 (fadd xh s.dly)
    let xf := fmul s.gainLp y
    let f := fmul 0x40000000#32 (fmul cf (fsub 0x3F800000#32 (fdiv (fmul cf cf) 0x40C00000#32)))
    let hp := fsub (fsub xf s.lp) (fmul s.qc s.bp)
    let bp := fadd s.bp (fmul f hp)
    let lp := fadd s.lp (fmul f bp)
    let out := fadd (fmul s.alphaMix bp) (fmul s.betaMix x)
    exec (.process x) s = .next { s with
      rel := rel, att := att, cf := cf, dly := xh, hp := hp, bp := bp, lp := lp
      rspq := s.rspq ++ [⟨.sample, out, s.impl.latencyExtra⟩] }) ∧
  (∀ w : CmdWord, opField w = 0b100#3 → decode w = .process (dataField w)) ∧
  ∃ t, exec (.process 0x3F800000#32) State.reset = .next t ∧ t.rspq.map Response.data = [0x35EB4494#32] ∧
    t.rel = 0x3F800000#32 ∧ t.att = 0x3A149000#32 ∧ t.dly = 0x3F800000#32 ∧ t.cf = 0x3ADA63D6#32 ∧
    t.hp = 0x3A09E470#32 ∧ t.bp = 0x35EB4494#32 ∧ t.lp = 0x31C8B420#32

/-- R36, R52, R148: the datapath registers and the sample a PROCESS leaves depend on nothing but the sample word, the ten
coefficients and REL, ATT, DLY, BP and LP: not on a parameter register, on CF or HP, on STATUS, on earlier responses or on
the implementation. -/
def Obligations.ProcessDependsOnFilterStateOnly : Prop := ∀ (x : F32) (s s' t t' : State),
  Agree isCoefficient s s' → Agree carriesOver s s' →
  exec (.process x) s = .next t → exec (.process x) s' = .next t' →
  Agree isDatapath t t' ∧
  ∃ d, t.rspq = s.rspq ++ [⟨.sample, d, s.impl.latencyExtra⟩] ∧
    t'.rspq = s'.rspq ++ [⟨.sample, d, s'.impl.latencyExtra⟩]

/-- R33: a SETP before a PROCESS, of whatever index and value, changes neither the sample nor the datapath registers. -/
def Obligations.StagedParameterHasNoEffectOnProcess : Prop := ∀ (idx : RegIdx) (v x : F32) (s t u w : State),
  exec (.setp idx v) s = .next t → exec (.process x) t = .next u → exec (.process x) s = .next w →
  u.rspq = w.rspq ∧ Agree isDatapath w u

/-- R150, first part: a NaN sample makes all seven datapath registers and the output the canonical NaN, in every state. -/
def Obligations.NaNSamplePoisonsDatapath : Prop := ∀ (x : F32) (s : State), isNaN x = true →
  exec (.process x) s = .next { s with
    rel := 0x7FC00000#32, att := 0x7FC00000#32, cf := 0x7FC00000#32, dly := 0x7FC00000#32
    hp := 0x7FC00000#32, bp := 0x7FC00000#32, lp := 0x7FC00000#32
    rspq := s.rspq ++ [⟨.sample, 0x7FC00000#32, s.impl.latencyExtra⟩] }

/-- R150, second part: after that REL recovers at the next sample that is no NaN, but a NaN in ATT, DLY, BP or LP stays:
every later output is the canonical NaN, and a NaN is still held. -/
def Obligations.NaNStatePersists : Prop := ∀ (x : F32) (s t : State), exec (.process x) s = .next t →
  (isNaN x = false → isNaN s.rel = true → t.rel = fabs x) ∧
  (isNaN s.att = true → t.att = 0x7FC00000#32 ∧ t.cf = 0x7FC00000#32 ∧ t.dly = 0x7FC00000#32 ∧ t.hp = 0x7FC00000#32) ∧
  (isNaN s.att = true ∨ isNaN s.dly = true ∨ isNaN s.bp = true ∨ isNaN s.lp = true →
    t.bp = 0x7FC00000#32 ∧ t.lp = 0x7FC00000#32 ∧
    t.rspq = s.rspq ++ [⟨.sample, 0x7FC00000#32, s.impl.latencyExtra⟩])

/-- R151: an infinite sample, or infinite REL and ATT from an earlier one, drives REL, ATT and CF to +∞ and the rest of the
datapath and the output to the canonical NaN, where the detector's coefficients and the bandwidth are finite and positive,
MIN_FREQ is finite, and REL and ATT hold no NaN and no sign. -/
def Obligations.InfiniteSampleSaturates : Prop := ∀ (x : F32) (s : State),
  (∀ a ∈ [s.alphaA, s.betaA, s.alphaR, s.betaR, s.freqBw], isFinite a = true ∧ sign a = false ∧ isZero a = false) →
  isFinite s.minFreq = true →
  isNaN s.rel = false → sign s.rel = false → isNaN s.att = false → sign s.att = false → isNaN x = false →
  isInf x = true ∨ (isInf s.rel = true ∧ isInf s.att = true) →
  exec (.process x) s = .next { s with
    rel := 0x7F800000#32, att := 0x7F800000#32, cf := 0x7F800000#32, dly := 0x7FC00000#32
    hp := 0x7FC00000#32, bp := 0x7FC00000#32, lp := 0x7FC00000#32
    rspq := s.rspq ++ [⟨.sample, 0x7FC00000#32, s.impl.latencyExtra⟩] }

/-- R152: from zero datapath registers, a sample +0 or −0 gives +0, leaves the datapath at +0 and sets CF to MIN_FREQ. To
the rule's conditions this adds that the detector's coefficients are finite and its ALPHAs have no sign, without which
`fmul(ALPHA_R, +0)` can be a NaN (log entry 5). -/
def Obligations.SilenceFromConstructedState : Prop := ∀ (x : F32) (s : State),
  isZero x = true →
  s.rel = 0#32 → s.att = 0#32 → s.dly = 0#32 → s.bp = 0#32 → s.lp = 0#32 →
  (∀ a ∈ [s.alphaA, s.betaA, s.alphaR, s.betaR, s.freqBw], isFinite a = true) →
  sign s.alphaA = false → sign s.alphaR = false →
  (∀ a ∈ [s.minFreq, s.qc, s.gainLp, s.alphaMix, s.betaMix, svfF s.minFreq], isFinite a = true ∧ sign a = false) →
  orderKey (approxTan s.minFreq) < orderKey 0x3F800000#32 →
  exec (.process x) s = .next { s with
    rel := 0#32, att := 0#32, dly := 0#32, cf := s.minFreq, hp := 0#32, bp := 0#32, lp := 0#32
    rspq := s.rspq ++ [⟨.sample, 0#32, s.impl.latencyExtra⟩] }

/-- R154 for a mix ratio of 0.0: the output is the sample, with the rule's exceptions. -/
def Obligations.MixZeroGivesDrySample : Prop :=
  (∀ s t : State, s.pMix = 0#32 → exec .construct s = .next t → t.alphaMix = 0#32 ∧ t.betaMix = 0x3F800000#32) ∧
  (∀ (x : F32) (s : State), s.alphaMix = 0#32 → s.betaMix = 0x3F800000#32 →
    ∃ t d, exec (.process x) s = .next t ∧ t.rspq = s.rspq ++ [⟨.sample, d, s.impl.latencyExtra⟩] ∧
      (isFinite t.bp = true → isNaN x = false → x ≠ 0x80000000#32 → d = x) ∧
      (isFinite t.bp = true → x = 0x80000000#32 → d = if sign t.bp then 0x80000000#32 else 0#32) ∧
      (isFinite t.bp = false → d = 0x7FC00000#32))

/-- R154 for a mix ratio of 1.0: the output is the wet signal BP, with the rule's exceptions. -/
def Obligations.MixOneGivesWetSample : Prop :=
  (∀ s t : State, s.pMix = 0x3F800000#32 → exec .construct s = .next t →
    t.alphaMix = 0x3F800000#32 ∧ t.betaMix = 0#32) ∧
  (∀ (x : F32) (s : State), s.alphaMix = 0x3F800000#32 → s.betaMix = 0#32 →
    ∃ t d, exec (.process x) s = .next t ∧ t.rspq = s.rspq ++ [⟨.sample, d, s.impl.latencyExtra⟩] ∧
      (isFinite x = true → t.bp ≠ 0x80000000#32 → d = t.bp) ∧
      (isFinite x = true → t.bp = 0x80000000#32 → d = if sign x then 0x80000000#32 else 0#32) ∧
      (isFinite x = false → d = 0x7FC00000#32))

/-- R53: every clock edge keeps the invariant of the envelope, from every state that meets it, as long as a PROCESS it
accepts has a sample that is no NaN and of magnitude at most 1; and after an edge that accepts such a PROCESS, where both
ALPHAs lie in [0.5, 1] and MIN_FREQ and FREQ_BW are finite and not negative, CF lies between MIN_FREQ and
`fadd(FREQ_BW, MIN_FREQ)`. Every edge that resets or constructs starts the envelope anew, with whatever ALPHAs it gives. -/
def Obligations.EnvelopeStaysInUnitRange : Prop := ∀ s t : State,
  EnvelopeInv s → step s = .next t → (∀ x, Accepts (.process x) s → inUnit (fabs x) = true) →
  EnvelopeInv t ∧
  (∀ x, Accepts (.process x) s → inUpperHalf s.alphaA = true → inUpperHalf s.alphaR = true →
    isFinite s.minFreq = true → isFinite s.freqBw = true → 0 ≤ orderKey s.minFreq → 0 ≤ orderKey s.freqBw →
    isNaN t.cf = false ∧ orderKey s.minFreq ≤ orderKey t.cf ∧ orderKey t.cf ≤ orderKey (fadd s.freqBw s.minFreq))

/-! ## Binary32 arithmetic (00_scope.md) -/

/-- R14, R16: `fadd` and `fsub` of finite operands are the exact sum and difference, rounded to nearest, ties to even, an
exact zero being +0 unless both addends are negative; an infinity and a finite value, or two infinities that do not
cancel, give that infinity. -/
def Obligations.AddAndSubRoundCorrectly : Prop :=
  (∀ a b : F32, isFinite a = true → isFinite b = true →
    RoundsTo ((val a : ℝ) + val b) (fadd a b) ∧ RoundsTo ((val a : ℝ) - val b) (fsub a b)) ∧
  (∀ a b : F32, isFinite a = true → isFinite b = true →
    (val a + val b = 0 → fadd a b = if sign a && sign b then 0x80000000#32 else 0x00000000#32) ∧
    (val a - val b = 0 → fsub a b = if sign a && !sign b then 0x80000000#32 else 0x00000000#32)) ∧
  (∀ a b : F32, isInf a = true → isFinite b = true →
    fadd a b = a ∧ fadd b a = a ∧ fsub a b = a ∧
    fsub b a = if sign a then 0x7F800000#32 else 0xFF800000#32) ∧
  (∀ a b : F32, isInf a = true → isInf b = true →
    (sign a = sign b → fadd a b = a) ∧ (sign a ≠ sign b → fsub a b = a))

/-- R14, R16: `fmul` of finite operands is the exact product, rounded to nearest, ties to even; an infinity times anything
but a zero or a NaN is the infinity of the exclusive-or of the signs. -/
def Obligations.MulRoundsCorrectly : Prop :=
  (∀ a b : F32, isFinite a = true → isFinite b = true → RoundsTo ((val a : ℝ) * val b / 2 ^ 149) (fmul a b)) ∧
  (∀ a b : F32, isInf a = true → isNaN b = false → isZero b = false →
    fmul a b = (if sign a ^^ sign b then 0xFF800000#32 else 0x7F800000#32) ∧
    fmul b a = if sign a ^^ sign b then 0xFF800000#32 else 0x7F800000#32)

/-- R14, R16: `fdiv` of finite operands, the divisor no zero, is the exact quotient, rounded to nearest, ties to even; an
infinity divided by a finite value is an infinity, and a finite value divided by an infinity a zero, both of the
exclusive-or of the signs. -/
def Obligations.DivRoundsCorrectly : Prop :=
  (∀ a b : F32, isFinite a = true → isFinite b = true → isZero b = false →
    RoundsTo ((val a : ℝ) * 2 ^ 149 / val b) (fdiv a b)) ∧
  (∀ a b : F32, isInf a = true → isFinite b = true →
    fdiv a b = if sign a ^^ sign b then 0xFF800000#32 else 0x7F800000#32) ∧
  (∀ a b : F32, isFinite a = true → isInf b = true →
    fdiv a b = if sign a ^^ sign b then 0x80000000#32 else 0x00000000#32)

/-- R14, R16: `fsqrt` of a finite operand that is not negative is the exact square root, rounded to nearest, ties to even;
a zero is its own square root, and so is +infinity. -/
def Obligations.SqrtRoundsCorrectly : Prop :=
  (∀ a : F32, isFinite a = true → sign a = false → RoundsTo (Real.sqrt ((val a : ℝ) * 2 ^ 149)) (fsqrt a)) ∧
  (∀ a : F32, isZero a = true → fsqrt a = a) ∧
  fsqrt 0x7F800000#32 = 0x7F800000#32

/-- R15: every NaN result of the five arithmetic primitives is the canonical one, and a NaN operand gives it. -/
def Obligations.NaNResultsAreCanonical : Prop := ∀ a b : F32,
  (∀ r ∈ [fadd a b, fsub a b, fmul a b, fdiv a b, fsqrt a], isNaN r = true → r = 0x7FC00000#32) ∧
  (isNaN a = true ∨ isNaN b = true →
    fadd a b = 0x7FC00000#32 ∧ fsub a b = 0x7FC00000#32 ∧ fmul a b = 0x7FC00000#32 ∧ fdiv a b = 0x7FC00000#32) ∧
  (isNaN a = true → fsqrt a = 0x7FC00000#32)

/-- R16: the signs of zeros, products and quotients, and the results of the invalid operations and of a division by
zero. -/
def Obligations.ZeroSignsAndInvalidOperations : Prop :=
  fadd 0x00000000#32 0x80000000#32 = 0x00000000#32 ∧
  (∀ x, isFinite x = true → fsub x x = 0x00000000#32) ∧
  (∀ a b, isNaN (fmul a b) = false → sign (fmul a b) = (sign a ^^ sign b)) ∧
  (∀ a b, isNaN (fdiv a b) = false → sign (fdiv a b) = (sign a ^^ sign b)) ∧
  (∀ a b, isZero a = true → isInf b = true → fmul a b = 0x7FC00000#32 ∧ fmul b a = 0x7FC00000#32) ∧
  (∀ a b, isZero a = true → isZero b = true → fdiv a b = 0x7FC00000#32) ∧
  (∀ a b, isInf a = true → isInf b = true → fdiv a b = 0x7FC00000#32) ∧
  (∀ a b, isInf a = true → isInf b = true →
    (sign a = sign b → fsub a b = 0x7FC00000#32) ∧ (sign a ≠ sign b → fadd a b = 0x7FC00000#32)) ∧
  (∀ a, isNaN a = false → isZero a = false → sign a = true → fsqrt a = 0x7FC00000#32) ∧
  (∀ a b, isFinite a = true → isZero a = false → isZero b = true →
    fdiv a b = if sign a ^^ sign b then 0xFF800000#32 else 0x7F800000#32) ∧
  fsqrt 0x80000000#32 = 0x80000000#32

/-- R14: `fabs` clears bit 31 and no other; `fmax` answers the other operand where one is a NaN, else the numerically
larger, and its first operand on a tie, the infinities beyond every finite value. -/
def Obligations.FabsAndFmax : Prop :=
  (∀ (a : F32) (n : Nat), (fabs a).getLsbD n = (a.getLsbD n && decide (n ≠ 31))) ∧
  (∀ a b : F32, isNaN a = true → fmax a b = b) ∧
  (∀ a b : F32, isNaN a = false → isNaN b = true → fmax a b = a) ∧
  (∀ a b : F32, isFinite a = true → isFinite b = true → fmax a b = if val a < val b then b else a) ∧
  (∀ a : F32, isNaN a = false → fmax a 0x7F800000#32 = 0x7F800000#32 ∧ fmax 0x7F800000#32 a = 0x7F800000#32 ∧
    fmax a 0xFF800000#32 = a ∧ fmax 0xFF800000#32 a = a)
end

