-- ==== Sys2Proof/Laws/Float.lean ====
section
/-! SUPPORT. The small laws of the binary32 primitives: the fields of a packed pattern, the NaN rules, and what the
rounding gives (its range, its monotonicity, its exactness on binary32 values, and that it is the nearest value). -/

namespace Sys2Proof.Float

/-! ## Fields -/

theorem expo_lt (a : F32) : expo a < 256 := Nat.mod_lt _ (by norm_num)

theorem frac_lt (a : F32) : frac a < 2 ^ 23 := Nat.mod_lt _ (by norm_num)

theorem sign_eq (a : F32) : sign a = decide (2 ^ 31 ≤ a.toNat) := by
  simp [sign, BitVec.msb_eq_decide]

/-- A pattern is its three fields. -/
theorem toNat_eq (a : F32) : a.toNat = (if sign a then 2 ^ 31 else 0) + expo a * 2 ^ 23 + frac a := by
  have := a.isLt
  rw [sign_eq]; unfold expo frac
  split <;> (rename_i h; simp only [decide_eq_true_eq, not_le] at h; omega)

theorem pack_toNat (b : Bool) {m : Nat} (h : m < 2 ^ 31) :
    (pack b m).toNat = m + if b then 2 ^ 31 else 0 := by
  unfold pack
  rw [BitVec.toNat_ofNat, Nat.mod_eq_of_lt]
  split <;> omega

theorem pack_sign (b : Bool) {m : Nat} (h : m < 2 ^ 31) : sign (pack b m) = b := by
  rw [sign_eq, pack_toNat b h]
  cases b <;> (simp; try omega)

theorem pack_expo (b : Bool) {m : Nat} (h : m < 2 ^ 31) : expo (pack b m) = m / 2 ^ 23 := by
  unfold expo; rw [pack_toNat b h]
  cases b <;> (simp; try omega)

theorem pack_frac (b : Bool) {m : Nat} (h : m < 2 ^ 31) : frac (pack b m) = m % 2 ^ 23 := by
  unfold frac; rw [pack_toNat b h]
  cases b <;> (simp; try omega)

/-- A pattern is the pack of its sign and its bits 30:0. -/
theorem pack_eta (a : F32) : pack (sign a) (a.toNat % 2 ^ 31) = a := by
  have := a.isLt
  apply BitVec.eq_of_toNat_eq
  rw [pack_toNat _ (Nat.mod_lt _ (by norm_num)), sign_eq]
  split <;> (rename_i h; simp only [decide_eq_true_eq, not_le] at h; omega)

theorem low_eq (a : F32) : a.toNat % 2 ^ 31 = expo a * 2 ^ 23 + frac a := by
  unfold expo frac; omega

/-! ## Classes -/

theorem isNaN_iff (a : F32) : isNaN a = true ↔ 0x7F800000 < a.toNat % 2 ^ 31 := by
  have := expo_lt a; have := frac_lt a
  simp only [isNaN, Bool.and_eq_true, beq_iff_eq, bne_iff_ne, low_eq]; omega

theorem isInf_iff (a : F32) : isInf a = true ↔ a.toNat % 2 ^ 31 = 0x7F800000 := by
  have := expo_lt a; have := frac_lt a
  simp only [isInf, Bool.and_eq_true, beq_iff_eq, low_eq]; omega

theorem isFinite_iff (a : F32) : isFinite a = true ↔ a.toNat % 2 ^ 31 < 0x7F800000 := by
  have := expo_lt a; have := frac_lt a
  simp only [isFinite, bne_iff_ne, low_eq]; omega

theorem isZero_iff (a : F32) : isZero a = true ↔ a.toNat % 2 ^ 31 = 0 := by
  simp only [isZero, Bool.and_eq_true, beq_iff_eq, low_eq]; omega

/-- Every pattern is finite, an infinity or a NaN, and only one of them. -/
theorem class_cases (a : F32) :
    (isFinite a = true ∧ isInf a = false ∧ isNaN a = false) ∨
    (isFinite a = false ∧ isInf a = true ∧ isNaN a = false) ∨
    (isFinite a = false ∧ isInf a = false ∧ isNaN a = true) := by
  rcases lt_trichotomy (a.toNat % 2 ^ 31) 0x7F800000 with h | h | h
  · left; refine ⟨(isFinite_iff a).2 h, ?_, ?_⟩ <;> rw [← Bool.not_eq_true]
    · rw [isInf_iff]; omega
    · rw [isNaN_iff]; omega
  · right; left; refine ⟨?_, (isInf_iff a).2 h, ?_⟩ <;> rw [← Bool.not_eq_true]
    · rw [isFinite_iff]; omega
    · rw [isNaN_iff]; omega
  · right; right; refine ⟨?_, ?_, (isNaN_iff a).2 h⟩ <;> rw [← Bool.not_eq_true]
    · rw [isFinite_iff]; omega
    · rw [isInf_iff]; omega

theorem not_nan_of_finite {a : F32} (h : isFinite a = true) : isNaN a = false := by
  rcases class_cases a with h' | h' | h' <;> simp_all

theorem not_inf_of_finite {a : F32} (h : isFinite a = true) : isInf a = false := by
  rcases class_cases a with h' | h' | h' <;> simp_all

theorem not_nan_of_inf {a : F32} (h : isInf a = true) : isNaN a = false := by
  rcases class_cases a with h' | h' | h' <;> simp_all

theorem not_finite_of_nan {a : F32} (h : isNaN a = true) : isFinite a = false := by
  rcases class_cases a with h' | h' | h' <;> simp_all

theorem not_inf_of_nan {a : F32} (h : isNaN a = true) : isInf a = false := by
  rcases class_cases a with h' | h' | h' <;> simp_all

theorem not_inf_of_zero {a : F32} (h : isZero a = true) : isInf a = false := by
  rw [isZero_iff] at h; rw [← Bool.not_eq_true, isInf_iff]; omega

theorem finite_of_zero {a : F32} (h : isZero a = true) : isFinite a = true := by
  rw [isZero_iff] at h; rw [isFinite_iff]; omega

@[simp] theorem isNaN_canonNaN : isNaN Config.canonNaN = true := by decide

theorem isNaN_pack {b : Bool} {m : Nat} (h : m ≤ 0x7F800000) : isNaN (pack b m) = false := by
  rw [← Bool.not_eq_true, isNaN_iff, low_eq, pack_expo b (by omega), pack_frac b (by omega)]; omega

theorem isFinite_pack {b : Bool} {m : Nat} (h : m < 0x7F800000) : isFinite (pack b m) = true := by
  rw [isFinite_iff, low_eq, pack_expo b (by omega), pack_frac b (by omega)]; omega

theorem isInf_pack (b : Bool) : isInf (pack b 0x7F800000) = true := by cases b <;> decide

theorem isZero_pack (b : Bool) : isZero (pack b 0) = true := by cases b <;> decide

theorem isInf_eq {a : F32} (h : isInf a = true) : a = pack (sign a) 0x7F800000 := by
  rw [isInf_iff] at h
  have := pack_eta a
  rw [h] at this; exact this.symm

theorem isZero_eq {a : F32} (h : isZero a = true) : a = pack (sign a) 0 := by
  rw [isZero_iff] at h
  have := pack_eta a
  rw [h] at this; exact this.symm

/-! ## Sign changes -/

@[simp] theorem sign_fneg (a : F32) : sign (fneg a) = !sign a := pack_sign _ (Nat.mod_lt _ (by norm_num))

theorem low_fneg (a : F32) : (fneg a).toNat % 2 ^ 31 = a.toNat % 2 ^ 31 := by
  unfold fneg
  rw [pack_toNat _ (Nat.mod_lt _ (by norm_num))]
  split <;> omega

@[simp] theorem expo_fneg (a : F32) : expo (fneg a) = expo a := by
  have := low_fneg a; unfold expo; omega

@[simp] theorem frac_fneg (a : F32) : frac (fneg a) = frac a := by
  have := low_fneg a; unfold frac; omega

@[simp] theorem isNaN_fneg (a : F32) : isNaN (fneg a) = isNaN a := by simp [isNaN]

@[simp] theorem isInf_fneg (a : F32) : isInf (fneg a) = isInf a := by simp [isInf]

@[simp] theorem isFinite_fneg (a : F32) : isFinite (fneg a) = isFinite a := by simp [isFinite]

@[simp] theorem isZero_fneg (a : F32) : isZero (fneg a) = isZero a := by simp [isZero]

@[simp] theorem mag_fneg (a : F32) : mag (fneg a) = mag a := by simp [mag]

@[simp] theorem val_fneg (a : F32) : val (fneg a) = -val a := by
  unfold val; simp only [sign_fneg, mag_fneg]; cases sign a <;> simp

theorem fabs_toNat (a : F32) : (fabs a).toNat = a.toNat % 2 ^ 31 := by
  unfold fabs; rw [BitVec.toNat_and]; exact Nat.and_two_pow_sub_one_eq_mod _ 31

@[simp] theorem sign_fabs (a : F32) : sign (fabs a) = false := by
  rw [sign_eq, fabs_toNat]; simp; omega

@[simp] theorem expo_fabs (a : F32) : expo (fabs a) = expo a := by
  unfold expo; rw [fabs_toNat]; omega

@[simp] theorem frac_fabs (a : F32) : frac (fabs a) = frac a := by
  unfold frac; rw [fabs_toNat]; omega

@[simp] theorem isNaN_fabs (a : F32) : isNaN (fabs a) = isNaN a := by simp [isNaN]

@[simp] theorem isInf_fabs (a : F32) : isInf (fabs a) = isInf a := by simp [isInf]

@[simp] theorem isFinite_fabs (a : F32) : isFinite (fabs a) = isFinite a := by simp [isFinite]

@[simp] theorem isZero_fabs (a : F32) : isZero (fabs a) = isZero a := by simp [isZero]

@[simp] theorem mag_fabs (a : F32) : mag (fabs a) = mag a := by simp [mag]

theorem val_fabs (a : F32) : val (fabs a) = mag a := by simp [val]

/-! ## NaN operands -/

@[simp] theorem fadd_nan_left {a : F32} (b : F32) (h : isNaN a = true) : fadd a b = Config.canonNaN := by
  simp [fadd, h]

@[simp] theorem fadd_nan_right (a : F32) {b : F32} (h : isNaN b = true) : fadd a b = Config.canonNaN := by
  simp [fadd, h]

@[simp] theorem fsub_nan_left {a : F32} (b : F32) (h : isNaN a = true) : fsub a b = Config.canonNaN := by
  simp [fsub, h]

@[simp] theorem fsub_nan_right (a : F32) {b : F32} (h : isNaN b = true) : fsub a b = Config.canonNaN := by
  simp [fsub, h]

@[simp] theorem fmul_nan_left {a : F32} (b : F32) (h : isNaN a = true) : fmul a b = Config.canonNaN := by
  simp [fmul, h]

@[simp] theorem fmul_nan_right (a : F32) {b : F32} (h : isNaN b = true) : fmul a b = Config.canonNaN := by
  simp [fmul, h]

@[simp] theorem fdiv_nan_left {a : F32} (b : F32) (h : isNaN a = true) : fdiv a b = Config.canonNaN := by
  simp [fdiv, h]

@[simp] theorem fdiv_nan_right (a : F32) {b : F32} (h : isNaN b = true) : fdiv a b = Config.canonNaN := by
  simp [fdiv, h]

@[simp] theorem fsqrt_nan {a : F32} (h : isNaN a = true) : fsqrt a = Config.canonNaN := by
  simp [fsqrt, h]

@[simp] theorem fmax_nan_left {a : F32} (b : F32) (h : isNaN a = true) : fmax a b = b := by
  simp [fmax, h]

theorem fmax_nan_right {a b : F32} (ha : isNaN a = false) (h : isNaN b = true) : fmax a b = a := by
  simp [fmax, h, ha]

/-- `fmax` answers one of its operands. -/
theorem fmax_cases (a b : F32) : fmax a b = a ∨ fmax a b = b := by
  unfold fmax; split
  · exact .inr rfl
  · split
    · exact .inl rfl
    · split
      · exact .inr rfl
      · exact .inl rfl

/-! ## Rounding: the magnitude of a pattern -/

/-- The magnitude, in units of 2^−149, that the bits 30:0 of a finite pattern stand for. -/
def lowMag (p : Nat) : Nat :=
  if p / 2 ^ 23 = 0 then p % 2 ^ 23 else (2 ^ 23 + p % 2 ^ 23) * 2 ^ (p / 2 ^ 23 - 1)

theorem mag_eq_lowMag (a : F32) : mag a = lowMag (a.toNat % 2 ^ 31) := by
  have h1 : a.toNat % 2 ^ 31 / 2 ^ 23 = expo a := by unfold expo; omega
  have h2 : a.toNat % 2 ^ 31 % 2 ^ 23 = frac a := by unfold frac; omega
  unfold mag lowMag; rw [h1, h2]

theorem mag_pack (b : Bool) {m : Nat} (h : m < 2 ^ 31) : mag (pack b m) = lowMag m := by
  unfold mag lowMag; rw [pack_expo b h, pack_frac b h]

/-- The pattern whose exponent part is `e` quanta and whose significand is `r` has the magnitude r × 2^e. -/
theorem lowMag_add {e r : Nat} (hr : r ≤ 2 ^ 24) (h : 0 < e → 2 ^ 23 ≤ r) :
    lowMag (e * 2 ^ 23 + r) = r * 2 ^ e := by
  unfold lowMag
  rcases Nat.eq_zero_or_pos e with rfl | he
  · simp only [Nat.zero_mul, Nat.zero_add, Nat.pow_zero, Nat.mul_one]
    by_cases h1 : r < 2 ^ 23
    · rw [if_pos (by omega)]; omega
    · rw [if_neg (by omega)]
      by_cases h2 : r = 2 ^ 24
      · subst h2; norm_num
      · have h3 : r / 2 ^ 23 - 1 = 0 := by omega
        simp only [h3, Nat.pow_zero, Nat.mul_one]; omega
  · have h0 := h he
    rw [if_neg (by omega)]
    by_cases h2 : r = 2 ^ 24
    · subst h2
      have h3 : (e * 2 ^ 23 + 2 ^ 24) / 2 ^ 23 = e + 2 := by omega
      have h4 : (e * 2 ^ 23 + 2 ^ 24) % 2 ^ 23 = 0 := by omega
      rw [h3, h4]
      have : e + 2 - 1 = e + 1 := by omega
      rw [this, pow_succ]; ring
    · have h3 : (e * 2 ^ 23 + r) / 2 ^ 23 = e + 1 := by omega
      have h4 : (e * 2 ^ 23 + r) % 2 ^ 23 = r - 2 ^ 23 := by omega
      rw [h3, h4]
      have : e + 1 - 1 = e := by omega
      rw [this, show 2 ^ 23 + (r - 2 ^ 23) = r by omega]

/-- Every pattern is such a sum: its quantum and its significand. -/
theorem low_split (p : Nat) :
    ∃ e r, p = e * 2 ^ 23 + r ∧ r < 2 ^ 24 ∧ (0 < e → 2 ^ 23 ≤ r) ∧ lowMag p = r * 2 ^ e := by
  by_cases h : p / 2 ^ 23 = 0
  · refine ⟨0, p, by omega, by omega, by omega, ?_⟩
    have := @lowMag_add 0 p (by omega) (by omega)
    simpa using this
  · refine ⟨p / 2 ^ 23 - 1, 2 ^ 23 + p % 2 ^ 23, by omega, by omega, by omega, ?_⟩
    have := @lowMag_add (p / 2 ^ 23 - 1) (2 ^ 23 + p % 2 ^ 23) (by omega) (by omega)
    rw [← this]; congr 1; omega

/-! ## Rounding to a whole number -/

/-- `roundNat` answers the whole part or the next whole number. -/
theorem roundNat_cases (n d : Nat) : roundNat n d = n / d ∨ roundNat n d = n / d + 1 := by
  unfold roundNat; split
  · exact .inl rfl
  · split
    · exact .inr rfl
    · omega

/-- `roundNat` is at most half a unit off, and even when it is exactly half a unit off. -/
theorem roundNat_near (n : Nat) {d : Nat} (hd : 0 < d) :
    2 * (d * roundNat n d) ≤ 2 * n + d ∧ 2 * n ≤ 2 * (d * roundNat n d) + d ∧
    (2 * (d * roundNat n d) = 2 * n + d ∨ 2 * n = 2 * (d * roundNat n d) + d → roundNat n d % 2 = 0) := by
  have h := Nat.div_add_mod n d
  have hm := Nat.mod_lt n hd
  unfold roundNat
  generalize hq : n / d = q at *
  generalize hr : n % d = r at *
  split
  · refine ⟨by omega, by omega, by omega⟩
  · split
    · have e : d * (q + 1) = d * q + d := by ring
      rw [e]
      refine ⟨by omega, by omega, by omega⟩
    · rcases Nat.mod_two_eq_zero_or_one q with h2 | h2
      · rw [h2]; refine ⟨by simp; omega, by simp; omega, by intro _; omega⟩
      · rw [h2]
        have e : d * (q + 1) = d * q + d := by ring
        rw [e]
        refine ⟨by omega, by omega, by intro _; omega⟩

/-- `roundNat` of a whole number is that number. -/
theorem roundNat_mul (k : Nat) {d : Nat} (hd : 0 < d) : roundNat (k * d) d = k := by
  unfold roundNat
  rw [Nat.mul_mod_left, Nat.mul_div_cancel _ hd]; simp [hd]

/-- `roundNat` is monotone in the quotient. -/
theorem roundNat_mono {n d n' d' : Nat} (hd : 0 < d) (hd' : 0 < d') (h : n * d' ≤ n' * d) :
    roundNat n d ≤ roundNat n' d' := by
  by_contra hc
  obtain ⟨-, h1, h1'⟩ := roundNat_near n hd
  obtain ⟨h2a, -, h2'⟩ := roundNat_near n' hd'
  obtain ⟨h1a, -, -⟩ := roundNat_near n hd
  obtain ⟨-, h2, -⟩ := roundNat_near n' hd'
  generalize roundNat n d = r at *
  generalize roundNat n' d' = r' at *
  have hlt : r' + 1 ≤ r := by omega
  -- 2 d r ≤ 2 n + d and 2 n' ≤ 2 d' r' + d'
  have e1 : d' * (2 * (d * r)) ≤ d' * (2 * n + d) := Nat.mul_le_mul_left _ h1a
  have e2 : d * (2 * n') ≤ d * (2 * (d' * r') + d') := Nat.mul_le_mul_left _ h2
  have e3 : d * d' * (r' + 1) ≤ d * d' * r := Nat.mul_le_mul_left _ hlt
  have e4 : d' * (2 * (d * r)) = 2 * (d * d' * r) := by ring
  have e5 : d' * (2 * n + d) = 2 * (n * d') + d * d' := by ring
  have e6 : d * (2 * n') = 2 * (n' * d) := by ring
  have e7 : d * (2 * (d' * r') + d') = 2 * (d * d' * r') + d * d' := by ring
  have e8 : d * d' * (r' + 1) = d * d' * r' + d * d' := by ring
  have hp : 0 < d * d' := Nat.mul_pos hd hd'
  have heq : d * d' * r = d * d' * (r' + 1) := by omega
  have hr : r = r' + 1 := Nat.eq_of_mul_eq_mul_left hp heq
  have t1 : d' * (2 * (d * r)) = d' * (2 * n + d) := by omega
  have t2 : d * (2 * n') = d * (2 * (d' * r') + d') := by omega
  have t1' := h1' (.inl (Nat.eq_of_mul_eq_mul_left hd' t1))
  have t2' := h2' (.inr (Nat.eq_of_mul_eq_mul_left hd t2))
  omega

/-! ## Rounding to 24 bits -/

theorem roundMag_le (n d : Nat) : roundMag n d ≤ 0x7F800000 := Nat.min_le_right _ _

theorem quantum_spec (q : Nat) : q < 2 ^ 24 * 2 ^ quantum q ∧ (0 < quantum q → 2 ^ 23 * 2 ^ quantum q ≤ q) := by
  unfold quantum
  rcases Nat.eq_zero_or_pos q with rfl | hq
  · simp
  have h1 := Nat.lt_log2_self (n := q)
  have h2 := Nat.log2_self_le (n := q) (by omega)
  by_cases h : Nat.log2 q ≤ 23
  · have e : Nat.log2 q - 23 = 0 := by omega
    rw [e]; refine ⟨?_, by omega⟩
    calc q < 2 ^ (q.log2 + 1) := h1
      _ ≤ 2 ^ 24 := Nat.pow_le_pow_right (by omega) (by omega)
      _ = _ := by simp
  · have e1 : q.log2 + 1 = 24 + (q.log2 - 23) := by omega
    have e2 : q.log2 = 23 + (q.log2 - 23) := by omega
    rw [e1, pow_add] at h1
    rw [e2, pow_add] at h2
    exact ⟨h1, fun _ => h2⟩

theorem quantum_mono {q q' : Nat} (h : q ≤ q') : quantum q ≤ quantum q' := by
  by_contra hc
  obtain ⟨h1, -⟩ := quantum_spec q'
  obtain ⟨-, h2⟩ := quantum_spec q
  have h2 := h2 (by omega)
  have : 2 ^ 24 * 2 ^ quantum q' ≤ 2 ^ 23 * 2 ^ quantum q := by
    rw [show (2:ℕ) ^ 24 = 2 ^ 23 * 2 from rfl, mul_assoc, ← pow_succ']
    exact Nat.mul_le_mul_left _ (Nat.pow_le_pow_right (by omega) (by omega))
  omega

/-- The significand `roundMag` rounds to: 24 bits, or one more by a carry. -/
theorem significand_bounds (n d : Nat) :
    roundNat n (d * 2 ^ quantum (n / d)) ≤ 2 ^ 24 ∧
    (0 < quantum (n / d) → 2 ^ 23 ≤ roundNat n (d * 2 ^ quantum (n / d))) := by
  obtain ⟨h1, h2⟩ := quantum_spec (n / d)
  generalize he : quantum (n / d) = e at *
  have hp : 0 < 2 ^ e := by positivity
  have hdiv : n / (d * 2 ^ e) = n / d / 2 ^ e := (Nat.div_div_eq_div_mul _ _ _).symm
  have hlt : n / (d * 2 ^ e) < 2 ^ 24 := by rw [hdiv]; exact (Nat.div_lt_iff_lt_mul hp).2 h1
  constructor
  · rcases roundNat_cases n (d * 2 ^ e) with h | h <;> omega
  · intro hpos
    have : 2 ^ 23 ≤ n / (d * 2 ^ e) := by rw [hdiv]; exact (Nat.le_div_iff_mul_le hp).2 (h2 hpos)
    rcases roundNat_cases n (d * 2 ^ e) with h | h <;> omega

/-- `roundMag` is monotone in the quotient. -/
theorem roundMag_mono {n d n' d' : Nat} (hd : 0 < d) (hd' : 0 < d') (h : n * d' ≤ n' * d) :
    roundMag n d ≤ roundMag n' d' := by
  have hq : n / d ≤ n' / d' := by
    rw [Nat.le_div_iff_mul_le hd']
    have h1 : n / d * d ≤ n := Nat.div_mul_le_self n d
    have h2 : n / d * d' * d ≤ n' * d := by
      calc n / d * d' * d = n / d * d * d' := by ring
        _ ≤ n * d' := Nat.mul_le_mul_right _ h1
        _ ≤ n' * d := h
    exact Nat.le_of_mul_le_mul_right h2 hd
  have hm := quantum_mono hq
  obtain ⟨hu, -⟩ := significand_bounds n d
  obtain ⟨-, hl⟩ := significand_bounds n' d'
  unfold roundMag
  apply min_le_min_right
  rcases Nat.lt_or_ge (quantum (n / d)) (quantum (n' / d')) with hlt | hge
  · have := hl (by omega); omega
  · have he : quantum (n' / d') = quantum (n / d) := by omega
    rw [he]
    apply Nat.add_le_add_left
    apply roundNat_mono (by positivity) (by positivity)
    calc n * (d' * 2 ^ quantum (n / d)) = n * d' * 2 ^ quantum (n / d) := by ring
      _ ≤ n' * d * 2 ^ quantum (n / d) := Nat.mul_le_mul_right _ h
      _ = n' * (d * 2 ^ quantum (n / d)) := by ring

/-- `roundMag` depends on the quotient alone. -/
theorem roundMag_congr {n d n' d' : Nat} (hd : 0 < d) (hd' : 0 < d') (h : n * d' = n' * d) :
    roundMag n d = roundMag n' d' :=
  Nat.le_antisymm (roundMag_mono hd hd' h.le) (roundMag_mono hd' hd h.ge)

theorem quantum_of_bounds {q e : Nat} (h1 : q < 2 ^ 24 * 2 ^ e) (h2 : 0 < e → 2 ^ 23 * 2 ^ e ≤ q) : quantum q = e := by
  obtain ⟨g1, g2⟩ := quantum_spec q
  rcases lt_trichotomy (quantum q) e with h | h | h
  · have h2 := h2 (by omega)
    have : 2 ^ 24 * 2 ^ quantum q ≤ 2 ^ 23 * 2 ^ e := by
      rw [show (2:ℕ) ^ 24 = 2 ^ 23 * 2 from rfl, mul_assoc, ← pow_succ']
      exact Nat.mul_le_mul_left _ (Nat.pow_le_pow_right (by omega) (by omega))
    omega
  · exact h
  · have g2 := g2 (by omega)
    have : 2 ^ 24 * 2 ^ e ≤ 2 ^ 23 * 2 ^ quantum q := by
      rw [show (2:ℕ) ^ 24 = 2 ^ 23 * 2 from rfl, mul_assoc, ← pow_succ']
      exact Nat.mul_le_mul_left _ (Nat.pow_le_pow_right (by omega) (by omega))
    omega

/-- A binary32 magnitude is not rounded. -/
theorem roundMag_lowMag {p : Nat} (hp : p ≤ 0x7F800000) {d : Nat} (hd : 0 < d) : roundMag (lowMag p * d) d = p := by
  obtain ⟨e, r, rfl, hr, hl, hm⟩ := low_split p
  have hq : quantum (r * 2 ^ e) = e := by
    apply quantum_of_bounds
    · exact Nat.mul_lt_mul_of_pos_right hr (by positivity)
    · intro h; exact Nat.mul_le_mul_right _ (hl h)
  unfold roundMag
  rw [hm, Nat.mul_div_cancel _ hd, hq]
  have : r * 2 ^ e * d = r * (d * 2 ^ e) := by ring
  rw [this, roundNat_mul _ (by positivity)]
  omega

/-- The greater pattern has the greater magnitude. -/
theorem lowMag_strictMono {p p' : Nat} (h : p < p') : lowMag p < lowMag p' := by
  obtain ⟨e, r, rfl, hr, hl, hm⟩ := low_split p
  obtain ⟨e', r', rfl, hr', hl', hm'⟩ := low_split p'
  rw [hm, hm']
  rcases lt_trichotomy e e' with he | rfl | he
  · have := hl' (by omega)
    calc r * 2 ^ e < 2 ^ 24 * 2 ^ e := Nat.mul_lt_mul_of_pos_right hr (by positivity)
      _ = 2 ^ 23 * 2 ^ (e + 1) := by rw [pow_succ]; ring
      _ ≤ 2 ^ 23 * 2 ^ e' := Nat.mul_le_mul_left _ (Nat.pow_le_pow_right (by omega) (by omega))
      _ ≤ r' * 2 ^ e' := Nat.mul_le_mul_right _ this
  · exact Nat.mul_lt_mul_of_pos_right (by omega) (by positivity)
  · have := hl (by omega); omega

theorem lowMag_le_iff {p p' : Nat} : lowMag p ≤ lowMag p' ↔ p ≤ p' := by
  constructor
  · intro h; by_contra hc; have := @lowMag_strictMono p' p (by omega); omega
  · intro h
    rcases Nat.lt_or_ge p p' with h' | h'
    · exact (lowMag_strictMono h').le
    · have : p = p' := by omega
      rw [this]

theorem lowMag_inj {p p' : Nat} (h : lowMag p = lowMag p') : p = p' :=
  Nat.le_antisymm (lowMag_le_iff.1 h.le) (lowMag_le_iff.1 h.ge)

/-- A whole multiple `r` of `D` within half a `D` of `n`, and even when it is exactly half a `D` off, is nearest among
the multiples. -/
theorem nearest_multiple {D n r : Int} (hD : 0 < D) (z1 : 2 * (D * r) ≤ 2 * n + D) (z2 : 2 * n ≤ 2 * (D * r) + D)
    (hev : 2 * (D * r) = 2 * n + D ∨ 2 * n = 2 * (D * r) + D → r % 2 = 0) (k : Int) :
    |D * r - n| ≤ |D * k - n| ∧ (|D * r - n| = |D * k - n| → k ≠ r → r % 2 = 0) := by
  rcases lt_trichotomy k r with hk | rfl | hk
  · have h : D * k + D ≤ D * r := by nlinarith
    have hneg : |D * k - n| = n - D * k := by rw [abs_of_nonpos (by omega)]; ring
    rw [hneg]
    refine ⟨abs_le.2 ⟨by omega, by omega⟩, fun he _ => hev (.inl ?_)⟩
    rcases abs_cases (D * r - n) with ⟨h1, h2⟩ | ⟨h1, h2⟩ <;> omega
  · exact ⟨le_rfl, fun _ h => absurd rfl h⟩
  · have h : D * r + D ≤ D * k := by nlinarith
    have hpos : |D * k - n| = D * k - n := abs_of_nonneg (by omega)
    rw [hpos]
    refine ⟨abs_le.2 ⟨by omega, by omega⟩, fun he _ => hev (.inr ?_)⟩
    rcases abs_cases (D * r - n) with ⟨h1, h2⟩ | ⟨h1, h2⟩ <;> omega

/-- The rounding is to a nearest binary32 magnitude: no magnitude is nearer to n / d than the one rounded to, and
where another is as near the pattern is even. Stated before the overflow to the infinity. -/
theorem round_nearest (n : Nat) {d : Nat} (hd : 0 < d) {p : Nat}
    (hp : p = quantum (n / d) * 2 ^ 23 + roundNat n (d * 2 ^ quantum (n / d))) (c : Nat) :
    |(d * lowMag p : Int) - n| ≤ |(d * lowMag c : Int) - n| ∧
    (|(d * lowMag p : Int) - n| = |(d * lowMag c : Int) - n| → c ≠ p → p % 2 = 0) := by
  obtain ⟨hu, hl⟩ := significand_bounds n d
  obtain ⟨-, hq2⟩ := quantum_spec (n / d)
  generalize he : quantum (n / d) = e at *
  have hpos : 0 < 2 ^ e := by positivity
  obtain ⟨n1, n2, n3⟩ := roundNat_near n (d := d * 2 ^ e) (by positivity)
  generalize hr : roundNat n (d * 2 ^ e) = r at *
  have hmp : lowMag p = r * 2 ^ e := by rw [hp]; exact lowMag_add hu hl
  have hD : (0 : Int) < ((d * 2 ^ e : Nat) : Int) := by exact_mod_cast Nat.mul_pos hd hpos
  have near := nearest_multiple (D := ((d * 2 ^ e : Nat) : Int)) (n := n) (r := r) hD
    (by exact_mod_cast n1) (by exact_mod_cast n2)
    (by intro h; have := n3 (by exact_mod_cast h); omega)
  have hdp : ((d : Int) * (lowMag p : Int)) = ((d * 2 ^ e : Nat) : Int) * r := by rw [hmp]; push_cast; ring
  have par : (r : Int) % 2 = 0 → p % 2 = 0 := by intro h; omega
  obtain ⟨ec, rc, rfl, hrc, hlc, hmc⟩ := low_split c
  by_cases hec : e ≤ ec
  · -- the other magnitude is a multiple of the quantum
    have hdc : ((d : Int) * (lowMag (ec * 2 ^ 23 + rc) : Int)) =
        ((d * 2 ^ e : Nat) : Int) * ((rc * 2 ^ (ec - e) : Nat) : Int) := by
      rw [hmc]
      have : 2 ^ ec = 2 ^ e * 2 ^ (ec - e) := by rw [← pow_add]; congr 1; omega
      rw [this]; push_cast; ring
    rw [hdp, hdc]
    refine ⟨(near _).1, fun h hne => par ((near _).2 h ?_)⟩
    intro hk
    apply hne
    apply lowMag_inj
    rw [hmc, hmp]
    have hk' : rc * 2 ^ (ec - e) = r := by exact_mod_cast hk
    rw [← hk', mul_assoc, ← pow_add]
    congr 2; omega
  · -- the other magnitude is smaller than the least multiple of the quantum with 24 bits
    have he0 : 0 < e := by omega
    have hlow : lowMag (ec * 2 ^ 23 + rc) < 2 ^ 23 * 2 ^ e := by
      rw [hmc]
      calc rc * 2 ^ ec < 2 ^ 24 * 2 ^ ec := Nat.mul_lt_mul_of_pos_right hrc (by positivity)
        _ = 2 ^ 23 * 2 ^ (ec + 1) := by rw [pow_succ]; ring
        _ ≤ 2 ^ 23 * 2 ^ e := Nat.mul_le_mul_left _ (Nat.pow_le_pow_right (by omega) (by omega))
    have hn : d * (2 ^ 23 * 2 ^ e) ≤ n := by
      calc d * (2 ^ 23 * 2 ^ e) ≤ d * (n / d) := Nat.mul_le_mul_left _ (hq2 he0)
        _ ≤ n := Nat.mul_div_le n d
    have hc : d * lowMag (ec * 2 ^ 23 + rc) < d * (2 ^ 23 * 2 ^ e) := Nat.mul_lt_mul_of_pos_left hlow hd
    have hb : ((d * 2 ^ e : Nat) : Int) * ((2 ^ 23 : Nat) : Int) = ((d * (2 ^ 23 * 2 ^ e) : Nat) : Int) := by
      push_cast; ring
    have hlt : |((d * 2 ^ e : Nat) : Int) * ((2 ^ 23 : Nat) : Int) - n| <
        |((d : Int) * (lowMag (ec * 2 ^ 23 + rc) : Int)) - n| := by
      rw [hb, abs_of_nonpos (by omega), abs_of_nonpos (by
        have : ((d * lowMag (ec * 2 ^ 23 + rc) : Nat) : Int) ≤ n := by omega
        push_cast at this; omega)]
      have : ((d * lowMag (ec * 2 ^ 23 + rc) : Nat) : Int) < ((d * (2 ^ 23 * 2 ^ e) : Nat) : Int) := by
        exact_mod_cast hc
      push_cast at this ⊢; omega
    rw [hdp]
    have := (near ((2 ^ 23 : Nat) : Int)).1
    exact ⟨by omega, fun h _ => by omega⟩

end Sys2Proof.Float
end

