-- ==== Sys2Proof/Laws/State.lean ====
section
/-! SUPPORT. What each field of the state is after each shared update: one lemma per field per update. -/

namespace Sys2Proof.Machine

@[simp] theorem setStatus_pTauA (b : StickyBit) (s : State) : (setStatus b s).pTauA = s.pTauA := by cases b <;> rfl
@[simp] theorem setStatus_pTauR (b : StickyBit) (s : State) : (setStatus b s).pTauR = s.pTauR := by cases b <;> rfl
@[simp] theorem setStatus_pMinF (b : StickyBit) (s : State) : (setStatus b s).pMinF = s.pMinF := by cases b <;> rfl
@[simp] theorem setStatus_pMaxF (b : StickyBit) (s : State) : (setStatus b s).pMaxF = s.pMaxF := by cases b <;> rfl
@[simp] theorem setStatus_pQ (b : StickyBit) (s : State) : (setStatus b s).pQ = s.pQ := by cases b <;> rfl
@[simp] theorem setStatus_pMix (b : StickyBit) (s : State) : (setStatus b s).pMix = s.pMix := by cases b <;> rfl
@[simp] theorem setStatus_alphaA (b : StickyBit) (s : State) :
    (setStatus b s).alphaA = s.alphaA := by cases b <;> rfl
@[simp] theorem setStatus_betaA (b : StickyBit) (s : State) : (setStatus b s).betaA = s.betaA := by cases b <;> rfl
@[simp] theorem setStatus_alphaR (b : StickyBit) (s : State) :
    (setStatus b s).alphaR = s.alphaR := by cases b <;> rfl
@[simp] theorem setStatus_betaR (b : StickyBit) (s : State) : (setStatus b s).betaR = s.betaR := by cases b <;> rfl
@[simp] theorem setStatus_gainLp (b : StickyBit) (s : State) :
    (setStatus b s).gainLp = s.gainLp := by cases b <;> rfl
@[simp] theorem setStatus_minFreq (b : StickyBit) (s : State) :
    (setStatus b s).minFreq = s.minFreq := by cases b <;> rfl
@[simp] theorem setStatus_freqBw (b : StickyBit) (s : State) :
    (setStatus b s).freqBw = s.freqBw := by cases b <;> rfl
@[simp] theorem setStatus_qc (b : StickyBit) (s : State) : (setStatus b s).qc = s.qc := by cases b <;> rfl
@[simp] theorem setStatus_alphaMix (b : StickyBit) (s : State) :
    (setStatus b s).alphaMix = s.alphaMix := by cases b <;> rfl
@[simp] theorem setStatus_betaMix (b : StickyBit) (s : State) :
    (setStatus b s).betaMix = s.betaMix := by cases b <;> rfl
@[simp] theorem setStatus_rel (b : StickyBit) (s : State) : (setStatus b s).rel = s.rel := by cases b <;> rfl
@[simp] theorem setStatus_att (b : StickyBit) (s : State) : (setStatus b s).att = s.att := by cases b <;> rfl
@[simp] theorem setStatus_dly (b : StickyBit) (s : State) : (setStatus b s).dly = s.dly := by cases b <;> rfl
@[simp] theorem setStatus_cf (b : StickyBit) (s : State) : (setStatus b s).cf = s.cf := by cases b <;> rfl
@[simp] theorem setStatus_hp (b : StickyBit) (s : State) : (setStatus b s).hp = s.hp := by cases b <;> rfl
@[simp] theorem setStatus_bp (b : StickyBit) (s : State) : (setStatus b s).bp = s.bp := by cases b <;> rfl
@[simp] theorem setStatus_lp (b : StickyBit) (s : State) : (setStatus b s).lp = s.lp := by cases b <;> rfl
@[simp] theorem setStatus_cfgNonfinite (b : StickyBit) (s : State) :
    (setStatus b s).cfgNonfinite = s.cfgNonfinite := by cases b <;> rfl
@[simp] theorem setStatus_rspq (b : StickyBit) (s : State) : (setStatus b s).rspq = s.rspq := by cases b <;> rfl
@[simp] theorem setStatus_busy (b : StickyBit) (s : State) : (setStatus b s).busy = s.busy := by cases b <;> rfl
@[simp] theorem setStatus_initialised (b : StickyBit) (s : State) :
    (setStatus b s).initialised = s.initialised := by cases b <;> rfl
@[simp] theorem setStatus_inputs (b : StickyBit) (s : State) :
    (setStatus b s).inputs = s.inputs := by cases b <;> rfl
@[simp] theorem setStatus_impl (b : StickyBit) (s : State) : (setStatus b s).impl = s.impl := by cases b <;> rfl
@[simp] theorem setStatus_errOp (b : StickyBit) (s : State) :
    (setStatus b s).errOp = (s.errOp || b == .errOp) := by cases b <;> cases h : s.errOp <;> simp [setStatus, h]
@[simp] theorem setStatus_errIdx (b : StickyBit) (s : State) :
    (setStatus b s).errIdx = (s.errIdx || b == .errIdx) := by cases b <;> cases h : s.errIdx <;> simp [setStatus, h]

@[simp] theorem updateCfgNonfinite_pTauA (s : State) : (updateCfgNonfinite s).pTauA = s.pTauA := rfl
@[simp] theorem updateCfgNonfinite_pTauR (s : State) : (updateCfgNonfinite s).pTauR = s.pTauR := rfl
@[simp] theorem updateCfgNonfinite_pMinF (s : State) : (updateCfgNonfinite s).pMinF = s.pMinF := rfl
@[simp] theorem updateCfgNonfinite_pMaxF (s : State) : (updateCfgNonfinite s).pMaxF = s.pMaxF := rfl
@[simp] theorem updateCfgNonfinite_pQ (s : State) : (updateCfgNonfinite s).pQ = s.pQ := rfl
@[simp] theorem updateCfgNonfinite_pMix (s : State) : (updateCfgNonfinite s).pMix = s.pMix := rfl
@[simp] theorem updateCfgNonfinite_alphaA (s : State) : (updateCfgNonfinite s).alphaA = s.alphaA := rfl
@[simp] theorem updateCfgNonfinite_betaA (s : State) : (updateCfgNonfinite s).betaA = s.betaA := rfl
@[simp] theorem updateCfgNonfinite_alphaR (s : State) : (updateCfgNonfinite s).alphaR = s.alphaR := rfl
@[simp] theorem updateCfgNonfinite_betaR (s : State) : (updateCfgNonfinite s).betaR = s.betaR := rfl
@[simp] theorem updateCfgNonfinite_gainLp (s : State) : (updateCfgNonfinite s).gainLp = s.gainLp := rfl
@[simp] theorem updateCfgNonfinite_minFreq (s : State) : (updateCfgNonfinite s).minFreq = s.minFreq := rfl
@[simp] theorem updateCfgNonfinite_freqBw (s : State) : (updateCfgNonfinite s).freqBw = s.freqBw := rfl
@[simp] theorem updateCfgNonfinite_qc (s : State) : (updateCfgNonfinite s).qc = s.qc := rfl
@[simp] theorem updateCfgNonfinite_alphaMix (s : State) : (updateCfgNonfinite s).alphaMix = s.alphaMix := rfl
@[simp] theorem updateCfgNonfinite_betaMix (s : State) : (updateCfgNonfinite s).betaMix = s.betaMix := rfl
@[simp] theorem updateCfgNonfinite_rel (s : State) : (updateCfgNonfinite s).rel = s.rel := rfl
@[simp] theorem updateCfgNonfinite_att (s : State) : (updateCfgNonfinite s).att = s.att := rfl
@[simp] theorem updateCfgNonfinite_dly (s : State) : (updateCfgNonfinite s).dly = s.dly := rfl
@[simp] theorem updateCfgNonfinite_cf (s : State) : (updateCfgNonfinite s).cf = s.cf := rfl
@[simp] theorem updateCfgNonfinite_hp (s : State) : (updateCfgNonfinite s).hp = s.hp := rfl
@[simp] theorem updateCfgNonfinite_bp (s : State) : (updateCfgNonfinite s).bp = s.bp := rfl
@[simp] theorem updateCfgNonfinite_lp (s : State) : (updateCfgNonfinite s).lp = s.lp := rfl
@[simp] theorem updateCfgNonfinite_errOp (s : State) : (updateCfgNonfinite s).errOp = s.errOp := rfl
@[simp] theorem updateCfgNonfinite_errIdx (s : State) : (updateCfgNonfinite s).errIdx = s.errIdx := rfl
@[simp] theorem updateCfgNonfinite_cfgNonfinite (s : State) :
    (updateCfgNonfinite s).cfgNonfinite = anyNonfinite s := rfl
@[simp] theorem updateCfgNonfinite_rspq (s : State) : (updateCfgNonfinite s).rspq = s.rspq := rfl
@[simp] theorem updateCfgNonfinite_busy (s : State) : (updateCfgNonfinite s).busy = s.busy := rfl
@[simp] theorem updateCfgNonfinite_initialised (s : State) :
    (updateCfgNonfinite s).initialised = s.initialised := rfl
@[simp] theorem updateCfgNonfinite_inputs (s : State) : (updateCfgNonfinite s).inputs = s.inputs := rfl
@[simp] theorem updateCfgNonfinite_impl (s : State) : (updateCfgNonfinite s).impl = s.impl := rfl

@[simp] theorem writeParam_alphaA (p : ParamReg) (v : F32) (s : State) :
    (writeParam p v s).alphaA = s.alphaA := by cases p <;> rfl
@[simp] theorem writeParam_betaA (p : ParamReg) (v : F32) (s : State) :
    (writeParam p v s).betaA = s.betaA := by cases p <;> rfl
@[simp] theorem writeParam_alphaR (p : ParamReg) (v : F32) (s : State) :
    (writeParam p v s).alphaR = s.alphaR := by cases p <;> rfl
@[simp] theorem writeParam_betaR (p : ParamReg) (v : F32) (s : State) :
    (writeParam p v s).betaR = s.betaR := by cases p <;> rfl
@[simp] theorem writeParam_gainLp (p : ParamReg) (v : F32) (s : State) :
    (writeParam p v s).gainLp = s.gainLp := by cases p <;> rfl
@[simp] theorem writeParam_minFreq (p : ParamReg) (v : F32) (s : State) :
    (writeParam p v s).minFreq = s.minFreq := by cases p <;> rfl
@[simp] theorem writeParam_freqBw (p : ParamReg) (v : F32) (s : State) :
    (writeParam p v s).freqBw = s.freqBw := by cases p <;> rfl
@[simp] theorem writeParam_qc (p : ParamReg) (v : F32) (s : State) :
    (writeParam p v s).qc = s.qc := by cases p <;> rfl
@[simp] theorem writeParam_alphaMix (p : ParamReg) (v : F32) (s : State) :
    (writeParam p v s).alphaMix = s.alphaMix := by cases p <;> rfl
@[simp] theorem writeParam_betaMix (p : ParamReg) (v : F32) (s : State) :
    (writeParam p v s).betaMix = s.betaMix := by cases p <;> rfl
@[simp] theorem writeParam_rel (p : ParamReg) (v : F32) (s : State) :
    (writeParam p v s).rel = s.rel := by cases p <;> rfl
@[simp] theorem writeParam_att (p : ParamReg) (v : F32) (s : State) :
    (writeParam p v s).att = s.att := by cases p <;> rfl
@[simp] theorem writeParam_dly (p : ParamReg) (v : F32) (s : State) :
    (writeParam p v s).dly = s.dly := by cases p <;> rfl
@[simp] theorem writeParam_cf (p : ParamReg) (v : F32) (s : State) :
    (writeParam p v s).cf = s.cf := by cases p <;> rfl
@[simp] theorem writeParam_hp (p : ParamReg) (v : F32) (s : State) :
    (writeParam p v s).hp = s.hp := by cases p <;> rfl
@[simp] theorem writeParam_bp (p : ParamReg) (v : F32) (s : State) :
    (writeParam p v s).bp = s.bp := by cases p <;> rfl
@[simp] theorem writeParam_lp (p : ParamReg) (v : F32) (s : State) :
    (writeParam p v s).lp = s.lp := by cases p <;> rfl
@[simp] theorem writeParam_errOp (p : ParamReg) (v : F32) (s : State) :
    (writeParam p v s).errOp = s.errOp := by cases p <;> rfl
@[simp] theorem writeParam_errIdx (p : ParamReg) (v : F32) (s : State) :
    (writeParam p v s).errIdx = s.errIdx := by cases p <;> rfl
@[simp] theorem writeParam_cfgNonfinite (p : ParamReg) (v : F32) (s : State) :
    (writeParam p v s).cfgNonfinite = s.cfgNonfinite := by cases p <;> rfl
@[simp] theorem writeParam_rspq (p : ParamReg) (v : F32) (s : State) :
    (writeParam p v s).rspq = s.rspq := by cases p <;> rfl
@[simp] theorem writeParam_busy (p : ParamReg) (v : F32) (s : State) :
    (writeParam p v s).busy = s.busy := by cases p <;> rfl
@[simp] theorem writeParam_initialised (p : ParamReg) (v : F32) (s : State) :
    (writeParam p v s).initialised = s.initialised := by cases p <;> rfl
@[simp] theorem writeParam_inputs (p : ParamReg) (v : F32) (s : State) :
    (writeParam p v s).inputs = s.inputs := by cases p <;> rfl
@[simp] theorem writeParam_impl (p : ParamReg) (v : F32) (s : State) :
    (writeParam p v s).impl = s.impl := by cases p <;> rfl
@[simp] theorem writeParam_pTauA (p : ParamReg) (v : F32) (s : State) :
    (writeParam p v s).pTauA = if p = .tauA then v else s.pTauA := by cases p <;> rfl
@[simp] theorem writeParam_pTauR (p : ParamReg) (v : F32) (s : State) :
    (writeParam p v s).pTauR = if p = .tauR then v else s.pTauR := by cases p <;> rfl
@[simp] theorem writeParam_pMinF (p : ParamReg) (v : F32) (s : State) :
    (writeParam p v s).pMinF = if p = .minF then v else s.pMinF := by cases p <;> rfl
@[simp] theorem writeParam_pMaxF (p : ParamReg) (v : F32) (s : State) :
    (writeParam p v s).pMaxF = if p = .maxF then v else s.pMaxF := by cases p <;> rfl
@[simp] theorem writeParam_pQ (p : ParamReg) (v : F32) (s : State) :
    (writeParam p v s).pQ = if p = .q then v else s.pQ := by cases p <;> rfl
@[simp] theorem writeParam_pMix (p : ParamReg) (v : F32) (s : State) :
    (writeParam p v s).pMix = if p = .mix then v else s.pMix := by cases p <;> rfl

@[simp] theorem emit_pTauA (k : RspKind) (d : F32) (s : State) : (emit k d s).pTauA = s.pTauA := rfl
@[simp] theorem emit_pTauR (k : RspKind) (d : F32) (s : State) : (emit k d s).pTauR = s.pTauR := rfl
@[simp] theorem emit_pMinF (k : RspKind) (d : F32) (s : State) : (emit k d s).pMinF = s.pMinF := rfl
@[simp] theorem emit_pMaxF (k : RspKind) (d : F32) (s : State) : (emit k d s).pMaxF = s.pMaxF := rfl
@[simp] theorem emit_pQ (k : RspKind) (d : F32) (s : State) : (emit k d s).pQ = s.pQ := rfl
@[simp] theorem emit_pMix (k : RspKind) (d : F32) (s : State) : (emit k d s).pMix = s.pMix := rfl
@[simp] theorem emit_alphaA (k : RspKind) (d : F32) (s : State) : (emit k d s).alphaA = s.alphaA := rfl
@[simp] theorem emit_betaA (k : RspKind) (d : F32) (s : State) : (emit k d s).betaA = s.betaA := rfl
@[simp] theorem emit_alphaR (k : RspKind) (d : F32) (s : State) : (emit k d s).alphaR = s.alphaR := rfl
@[simp] theorem emit_betaR (k : RspKind) (d : F32) (s : State) : (emit k d s).betaR = s.betaR := rfl
@[simp] theorem emit_gainLp (k : RspKind) (d : F32) (s : State) : (emit k d s).gainLp = s.gainLp := rfl
@[simp] theorem emit_minFreq (k : RspKind) (d : F32) (s : State) : (emit k d s).minFreq = s.minFreq := rfl
@[simp] theorem emit_freqBw (k : RspKind) (d : F32) (s : State) : (emit k d s).freqBw = s.freqBw := rfl
@[simp] theorem emit_qc (k : RspKind) (d : F32) (s : State) : (emit k d s).qc = s.qc := rfl
@[simp] theorem emit_alphaMix (k : RspKind) (d : F32) (s : State) : (emit k d s).alphaMix = s.alphaMix := rfl
@[simp] theorem emit_betaMix (k : RspKind) (d : F32) (s : State) : (emit k d s).betaMix = s.betaMix := rfl
@[simp] theorem emit_rel (k : RspKind) (d : F32) (s : State) : (emit k d s).rel = s.rel := rfl
@[simp] theorem emit_att (k : RspKind) (d : F32) (s : State) : (emit k d s).att = s.att := rfl
@[simp] theorem emit_dly (k : RspKind) (d : F32) (s : State) : (emit k d s).dly = s.dly := rfl
@[simp] theorem emit_cf (k : RspKind) (d : F32) (s : State) : (emit k d s).cf = s.cf := rfl
@[simp] theorem emit_hp (k : RspKind) (d : F32) (s : State) : (emit k d s).hp = s.hp := rfl
@[simp] theorem emit_bp (k : RspKind) (d : F32) (s : State) : (emit k d s).bp = s.bp := rfl
@[simp] theorem emit_lp (k : RspKind) (d : F32) (s : State) : (emit k d s).lp = s.lp := rfl
@[simp] theorem emit_errOp (k : RspKind) (d : F32) (s : State) : (emit k d s).errOp = s.errOp := rfl
@[simp] theorem emit_errIdx (k : RspKind) (d : F32) (s : State) : (emit k d s).errIdx = s.errIdx := rfl
@[simp] theorem emit_cfgNonfinite (k : RspKind) (d : F32) (s : State) :
    (emit k d s).cfgNonfinite = s.cfgNonfinite := rfl
@[simp] theorem emit_rspq (k : RspKind) (d : F32) (s : State) :
    (emit k d s).rspq = s.rspq ++ [{ kind := k, data := d, wait := s.impl.latencyExtra }] := rfl
@[simp] theorem emit_busy (k : RspKind) (d : F32) (s : State) : (emit k d s).busy = s.busy := rfl
@[simp] theorem emit_initialised (k : RspKind) (d : F32) (s : State) :
    (emit k d s).initialised = s.initialised := rfl
@[simp] theorem emit_inputs (k : RspKind) (d : F32) (s : State) : (emit k d s).inputs = s.inputs := rfl
@[simp] theorem emit_impl (k : RspKind) (d : F32) (s : State) : (emit k d s).impl = s.impl := rfl

@[simp] theorem deriveTimeConstants_pTauA (s : State) : (deriveTimeConstants s).pTauA = s.pTauA := rfl
@[simp] theorem deriveTimeConstants_pTauR (s : State) : (deriveTimeConstants s).pTauR = s.pTauR := rfl
@[simp] theorem deriveTimeConstants_pMinF (s : State) : (deriveTimeConstants s).pMinF = s.pMinF := rfl
@[simp] theorem deriveTimeConstants_pMaxF (s : State) : (deriveTimeConstants s).pMaxF = s.pMaxF := rfl
@[simp] theorem deriveTimeConstants_pQ (s : State) : (deriveTimeConstants s).pQ = s.pQ := rfl
@[simp] theorem deriveTimeConstants_pMix (s : State) : (deriveTimeConstants s).pMix = s.pMix := rfl
@[simp] theorem deriveTimeConstants_alphaA (s : State) :
    (deriveTimeConstants s).alphaA = alphaOf s.impl s.pTauA := rfl
@[simp] theorem deriveTimeConstants_betaA (s : State) :
    (deriveTimeConstants s).betaA = Float.fsub Config.one (alphaOf s.impl s.pTauA) := rfl
@[simp] theorem deriveTimeConstants_alphaR (s : State) :
    (deriveTimeConstants s).alphaR = alphaOf s.impl s.pTauR := rfl
@[simp] theorem deriveTimeConstants_betaR (s : State) :
    (deriveTimeConstants s).betaR = Float.fsub Config.one (alphaOf s.impl s.pTauR) := rfl
@[simp] theorem deriveTimeConstants_gainLp (s : State) : (deriveTimeConstants s).gainLp = s.gainLp := rfl
@[simp] theorem deriveTimeConstants_minFreq (s : State) : (deriveTimeConstants s).minFreq = s.minFreq := rfl
@[simp] theorem deriveTimeConstants_freqBw (s : State) : (deriveTimeConstants s).freqBw = s.freqBw := rfl
@[simp] theorem deriveTimeConstants_qc (s : State) : (deriveTimeConstants s).qc = s.qc := rfl
@[simp] theorem deriveTimeConstants_alphaMix (s : State) : (deriveTimeConstants s).alphaMix = s.alphaMix := rfl
@[simp] theorem deriveTimeConstants_betaMix (s : State) : (deriveTimeConstants s).betaMix = s.betaMix := rfl
@[simp] theorem deriveTimeConstants_rel (s : State) : (deriveTimeConstants s).rel = s.rel := rfl
@[simp] theorem deriveTimeConstants_att (s : State) : (deriveTimeConstants s).att = s.att := rfl
@[simp] theorem deriveTimeConstants_dly (s : State) : (deriveTimeConstants s).dly = s.dly := rfl
@[simp] theorem deriveTimeConstants_cf (s : State) : (deriveTimeConstants s).cf = s.cf := rfl
@[simp] theorem deriveTimeConstants_hp (s : State) : (deriveTimeConstants s).hp = s.hp := rfl
@[simp] theorem deriveTimeConstants_bp (s : State) : (deriveTimeConstants s).bp = s.bp := rfl
@[simp] theorem deriveTimeConstants_lp (s : State) : (deriveTimeConstants s).lp = s.lp := rfl
@[simp] theorem deriveTimeConstants_errOp (s : State) : (deriveTimeConstants s).errOp = s.errOp := rfl
@[simp] theorem deriveTimeConstants_errIdx (s : State) : (deriveTimeConstants s).errIdx = s.errIdx := rfl
@[simp] theorem deriveTimeConstants_cfgNonfinite (s : State) :
    (deriveTimeConstants s).cfgNonfinite = s.cfgNonfinite := rfl
@[simp] theorem deriveTimeConstants_rspq (s : State) : (deriveTimeConstants s).rspq = s.rspq := rfl
@[simp] theorem deriveTimeConstants_busy (s : State) : (deriveTimeConstants s).busy = s.busy := rfl
@[simp] theorem deriveTimeConstants_initialised (s : State) :
    (deriveTimeConstants s).initialised = s.initialised := rfl
@[simp] theorem deriveTimeConstants_inputs (s : State) : (deriveTimeConstants s).inputs = s.inputs := rfl
@[simp] theorem deriveTimeConstants_impl (s : State) : (deriveTimeConstants s).impl = s.impl := rfl

@[simp] theorem deriveFilter_pTauA (s : State) : (deriveFilter s).pTauA = s.pTauA := rfl
@[simp] theorem deriveFilter_pTauR (s : State) : (deriveFilter s).pTauR = s.pTauR := rfl
@[simp] theorem deriveFilter_pMinF (s : State) : (deriveFilter s).pMinF = s.pMinF := rfl
@[simp] theorem deriveFilter_pMaxF (s : State) : (deriveFilter s).pMaxF = s.pMaxF := rfl
@[simp] theorem deriveFilter_pQ (s : State) : (deriveFilter s).pQ = s.pQ := rfl
@[simp] theorem deriveFilter_pMix (s : State) : (deriveFilter s).pMix = s.pMix := rfl
@[simp] theorem deriveFilter_alphaA (s : State) : (deriveFilter s).alphaA = s.alphaA := rfl
@[simp] theorem deriveFilter_betaA (s : State) : (deriveFilter s).betaA = s.betaA := rfl
@[simp] theorem deriveFilter_alphaR (s : State) : (deriveFilter s).alphaR = s.alphaR := rfl
@[simp] theorem deriveFilter_betaR (s : State) : (deriveFilter s).betaR = s.betaR := rfl
@[simp] theorem deriveFilter_gainLp (s : State) :
    (deriveFilter s).gainLp = Float.fsqrt (Float.fmul Config.half s.pQ) := rfl
@[simp] theorem deriveFilter_minFreq (s : State) : (deriveFilter s).minFreq = angular s.pMinF := rfl
@[simp] theorem deriveFilter_freqBw (s : State) :
    (deriveFilter s).freqBw = angular (Float.fsub (Float.fmul Config.two s.pMaxF) s.pMinF) := rfl
@[simp] theorem deriveFilter_qc (s : State) : (deriveFilter s).qc = s.pQ := rfl
@[simp] theorem deriveFilter_alphaMix (s : State) : (deriveFilter s).alphaMix = s.pMix := rfl
@[simp] theorem deriveFilter_betaMix (s : State) : (deriveFilter s).betaMix = Float.fsub Config.one s.pMix := rfl
@[simp] theorem deriveFilter_rel (s : State) : (deriveFilter s).rel = s.rel := rfl
@[simp] theorem deriveFilter_att (s : State) : (deriveFilter s).att = s.att := rfl
@[simp] theorem deriveFilter_dly (s : State) : (deriveFilter s).dly = s.dly := rfl
@[simp] theorem deriveFilter_cf (s : State) : (deriveFilter s).cf = s.cf := rfl
@[simp] theorem deriveFilter_hp (s : State) : (deriveFilter s).hp = s.hp := rfl
@[simp] theorem deriveFilter_bp (s : State) : (deriveFilter s).bp = s.bp := rfl
@[simp] theorem deriveFilter_lp (s : State) : (deriveFilter s).lp = s.lp := rfl
@[simp] theorem deriveFilter_errOp (s : State) : (deriveFilter s).errOp = s.errOp := rfl
@[simp] theorem deriveFilter_errIdx (s : State) : (deriveFilter s).errIdx = s.errIdx := rfl
@[simp] theorem deriveFilter_cfgNonfinite (s : State) : (deriveFilter s).cfgNonfinite = s.cfgNonfinite := rfl
@[simp] theorem deriveFilter_rspq (s : State) : (deriveFilter s).rspq = s.rspq := rfl
@[simp] theorem deriveFilter_busy (s : State) : (deriveFilter s).busy = s.busy := rfl
@[simp] theorem deriveFilter_initialised (s : State) : (deriveFilter s).initialised = s.initialised := rfl
@[simp] theorem deriveFilter_inputs (s : State) : (deriveFilter s).inputs = s.inputs := rfl
@[simp] theorem deriveFilter_impl (s : State) : (deriveFilter s).impl = s.impl := rfl

@[simp] theorem clearDatapath_pTauA (s : State) : (clearDatapath s).pTauA = s.pTauA := rfl
@[simp] theorem clearDatapath_pTauR (s : State) : (clearDatapath s).pTauR = s.pTauR := rfl
@[simp] theorem clearDatapath_pMinF (s : State) : (clearDatapath s).pMinF = s.pMinF := rfl
@[simp] theorem clearDatapath_pMaxF (s : State) : (clearDatapath s).pMaxF = s.pMaxF := rfl
@[simp] theorem clearDatapath_pQ (s : State) : (clearDatapath s).pQ = s.pQ := rfl
@[simp] theorem clearDatapath_pMix (s : State) : (clearDatapath s).pMix = s.pMix := rfl
@[simp] theorem clearDatapath_alphaA (s : State) : (clearDatapath s).alphaA = s.alphaA := rfl
@[simp] theorem clearDatapath_betaA (s : State) : (clearDatapath s).betaA = s.betaA := rfl
@[simp] theorem clearDatapath_alphaR (s : State) : (clearDatapath s).alphaR = s.alphaR := rfl
@[simp] theorem clearDatapath_betaR (s : State) : (clearDatapath s).betaR = s.betaR := rfl
@[simp] theorem clearDatapath_gainLp (s : State) : (clearDatapath s).gainLp = s.gainLp := rfl
@[simp] theorem clearDatapath_minFreq (s : State) : (clearDatapath s).minFreq = s.minFreq := rfl
@[simp] theorem clearDatapath_freqBw (s : State) : (clearDatapath s).freqBw = s.freqBw := rfl
@[simp] theorem clearDatapath_qc (s : State) : (clearDatapath s).qc = s.qc := rfl
@[simp] theorem clearDatapath_alphaMix (s : State) : (clearDatapath s).alphaMix = s.alphaMix := rfl
@[simp] theorem clearDatapath_betaMix (s : State) : (clearDatapath s).betaMix = s.betaMix := rfl
@[simp] theorem clearDatapath_rel (s : State) : (clearDatapath s).rel = Config.zero := rfl
@[simp] theorem clearDatapath_att (s : State) : (clearDatapath s).att = Config.zero := rfl
@[simp] theorem clearDatapath_dly (s : State) : (clearDatapath s).dly = Config.zero := rfl
@[simp] theorem clearDatapath_cf (s : State) : (clearDatapath s).cf = Config.zero := rfl
@[simp] theorem clearDatapath_hp (s : State) : (clearDatapath s).hp = Config.zero := rfl
@[simp] theorem clearDatapath_bp (s : State) : (clearDatapath s).bp = Config.zero := rfl
@[simp] theorem clearDatapath_lp (s : State) : (clearDatapath s).lp = Config.zero := rfl
@[simp] theorem clearDatapath_errOp (s : State) : (clearDatapath s).errOp = s.errOp := rfl
@[simp] theorem clearDatapath_errIdx (s : State) : (clearDatapath s).errIdx = s.errIdx := rfl
@[simp] theorem clearDatapath_cfgNonfinite (s : State) : (clearDatapath s).cfgNonfinite = s.cfgNonfinite := rfl
@[simp] theorem clearDatapath_rspq (s : State) : (clearDatapath s).rspq = s.rspq := rfl
@[simp] theorem clearDatapath_busy (s : State) : (clearDatapath s).busy = s.busy := rfl
@[simp] theorem clearDatapath_initialised (s : State) : (clearDatapath s).initialised = s.initialised := rfl
@[simp] theorem clearDatapath_inputs (s : State) : (clearDatapath s).inputs = s.inputs := rfl
@[simp] theorem clearDatapath_impl (s : State) : (clearDatapath s).impl = s.impl := rfl

@[simp] theorem loadDefaults_pTauA (s : State) : (loadDefaults s).pTauA = Config.defaultTauA := rfl
@[simp] theorem loadDefaults_pTauR (s : State) : (loadDefaults s).pTauR = Config.defaultTauR := rfl
@[simp] theorem loadDefaults_pMinF (s : State) : (loadDefaults s).pMinF = Config.defaultMinF := rfl
@[simp] theorem loadDefaults_pMaxF (s : State) : (loadDefaults s).pMaxF = Config.defaultMaxF := rfl
@[simp] theorem loadDefaults_pQ (s : State) : (loadDefaults s).pQ = Config.defaultQ := rfl
@[simp] theorem loadDefaults_pMix (s : State) : (loadDefaults s).pMix = Config.defaultMix := rfl
@[simp] theorem loadDefaults_alphaA (s : State) : (loadDefaults s).alphaA = s.alphaA := rfl
@[simp] theorem loadDefaults_betaA (s : State) : (loadDefaults s).betaA = s.betaA := rfl
@[simp] theorem loadDefaults_alphaR (s : State) : (loadDefaults s).alphaR = s.alphaR := rfl
@[simp] theorem loadDefaults_betaR (s : State) : (loadDefaults s).betaR = s.betaR := rfl
@[simp] theorem loadDefaults_gainLp (s : State) : (loadDefaults s).gainLp = s.gainLp := rfl
@[simp] theorem loadDefaults_minFreq (s : State) : (loadDefaults s).minFreq = s.minFreq := rfl
@[simp] theorem loadDefaults_freqBw (s : State) : (loadDefaults s).freqBw = s.freqBw := rfl
@[simp] theorem loadDefaults_qc (s : State) : (loadDefaults s).qc = s.qc := rfl
@[simp] theorem loadDefaults_alphaMix (s : State) : (loadDefaults s).alphaMix = s.alphaMix := rfl
@[simp] theorem loadDefaults_betaMix (s : State) : (loadDefaults s).betaMix = s.betaMix := rfl
@[simp] theorem loadDefaults_rel (s : State) : (loadDefaults s).rel = s.rel := rfl
@[simp] theorem loadDefaults_att (s : State) : (loadDefaults s).att = s.att := rfl
@[simp] theorem loadDefaults_dly (s : State) : (loadDefaults s).dly = s.dly := rfl
@[simp] theorem loadDefaults_cf (s : State) : (loadDefaults s).cf = s.cf := rfl
@[simp] theorem loadDefaults_hp (s : State) : (loadDefaults s).hp = s.hp := rfl
@[simp] theorem loadDefaults_bp (s : State) : (loadDefaults s).bp = s.bp := rfl
@[simp] theorem loadDefaults_lp (s : State) : (loadDefaults s).lp = s.lp := rfl
@[simp] theorem loadDefaults_errOp (s : State) : (loadDefaults s).errOp = s.errOp := rfl
@[simp] theorem loadDefaults_errIdx (s : State) : (loadDefaults s).errIdx = s.errIdx := rfl
@[simp] theorem loadDefaults_cfgNonfinite (s : State) : (loadDefaults s).cfgNonfinite = s.cfgNonfinite := rfl
@[simp] theorem loadDefaults_rspq (s : State) : (loadDefaults s).rspq = s.rspq := rfl
@[simp] theorem loadDefaults_busy (s : State) : (loadDefaults s).busy = s.busy := rfl
@[simp] theorem loadDefaults_initialised (s : State) : (loadDefaults s).initialised = s.initialised := rfl
@[simp] theorem loadDefaults_inputs (s : State) : (loadDefaults s).inputs = s.inputs := rfl
@[simp] theorem loadDefaults_impl (s : State) : (loadDefaults s).impl = s.impl := rfl

@[simp] theorem levelDetector_pTauA (xa : F32) (s : State) : (levelDetector xa s).pTauA = s.pTauA := rfl
@[simp] theorem levelDetector_pTauR (xa : F32) (s : State) : (levelDetector xa s).pTauR = s.pTauR := rfl
@[simp] theorem levelDetector_pMinF (xa : F32) (s : State) : (levelDetector xa s).pMinF = s.pMinF := rfl
@[simp] theorem levelDetector_pMaxF (xa : F32) (s : State) : (levelDetector xa s).pMaxF = s.pMaxF := rfl
@[simp] theorem levelDetector_pQ (xa : F32) (s : State) : (levelDetector xa s).pQ = s.pQ := rfl
@[simp] theorem levelDetector_pMix (xa : F32) (s : State) : (levelDetector xa s).pMix = s.pMix := rfl
@[simp] theorem levelDetector_alphaA (xa : F32) (s : State) : (levelDetector xa s).alphaA = s.alphaA := rfl
@[simp] theorem levelDetector_betaA (xa : F32) (s : State) : (levelDetector xa s).betaA = s.betaA := rfl
@[simp] theorem levelDetector_alphaR (xa : F32) (s : State) : (levelDetector xa s).alphaR = s.alphaR := rfl
@[simp] theorem levelDetector_betaR (xa : F32) (s : State) : (levelDetector xa s).betaR = s.betaR := rfl
@[simp] theorem levelDetector_gainLp (xa : F32) (s : State) : (levelDetector xa s).gainLp = s.gainLp := rfl
@[simp] theorem levelDetector_minFreq (xa : F32) (s : State) : (levelDetector xa s).minFreq = s.minFreq := rfl
@[simp] theorem levelDetector_freqBw (xa : F32) (s : State) : (levelDetector xa s).freqBw = s.freqBw := rfl
@[simp] theorem levelDetector_qc (xa : F32) (s : State) : (levelDetector xa s).qc = s.qc := rfl
@[simp] theorem levelDetector_alphaMix (xa : F32) (s : State) : (levelDetector xa s).alphaMix = s.alphaMix := rfl
@[simp] theorem levelDetector_betaMix (xa : F32) (s : State) : (levelDetector xa s).betaMix = s.betaMix := rfl
@[simp] theorem levelDetector_rel (xa : F32) (s : State) :
    (levelDetector xa s).rel = Float.fmax xa (releaseY1 xa s) := rfl
@[simp] theorem levelDetector_att (xa : F32) (s : State) :
    (levelDetector xa s).att = Float.fadd (Float.fmul s.alphaA s.att) (Float.fmul s.betaA (Float.fmax xa (releaseY1 xa s))) := rfl
@[simp] theorem levelDetector_dly (xa : F32) (s : State) : (levelDetector xa s).dly = s.dly := rfl
@[simp] theorem levelDetector_cf (xa : F32) (s : State) : (levelDetector xa s).cf = s.cf := rfl
@[simp] theorem levelDetector_hp (xa : F32) (s : State) : (levelDetector xa s).hp = s.hp := rfl
@[simp] theorem levelDetector_bp (xa : F32) (s : State) : (levelDetector xa s).bp = s.bp := rfl
@[simp] theorem levelDetector_lp (xa : F32) (s : State) : (levelDetector xa s).lp = s.lp := rfl
@[simp] theorem levelDetector_errOp (xa : F32) (s : State) : (levelDetector xa s).errOp = s.errOp := rfl
@[simp] theorem levelDetector_errIdx (xa : F32) (s : State) : (levelDetector xa s).errIdx = s.errIdx := rfl
@[simp] theorem levelDetector_cfgNonfinite (xa : F32) (s : State) :
    (levelDetector xa s).cfgNonfinite = s.cfgNonfinite := rfl
@[simp] theorem levelDetector_rspq (xa : F32) (s : State) : (levelDetector xa s).rspq = s.rspq := rfl
@[simp] theorem levelDetector_busy (xa : F32) (s : State) : (levelDetector xa s).busy = s.busy := rfl
@[simp] theorem levelDetector_initialised (xa : F32) (s : State) :
    (levelDetector xa s).initialised = s.initialised := rfl
@[simp] theorem levelDetector_inputs (xa : F32) (s : State) : (levelDetector xa s).inputs = s.inputs := rfl
@[simp] theorem levelDetector_impl (xa : F32) (s : State) : (levelDetector xa s).impl = s.impl := rfl

@[simp] theorem mapper_pTauA (s : State) : (mapper s).pTauA = s.pTauA := rfl
@[simp] theorem mapper_pTauR (s : State) : (mapper s).pTauR = s.pTauR := rfl
@[simp] theorem mapper_pMinF (s : State) : (mapper s).pMinF = s.pMinF := rfl
@[simp] theorem mapper_pMaxF (s : State) : (mapper s).pMaxF = s.pMaxF := rfl
@[simp] theorem mapper_pQ (s : State) : (mapper s).pQ = s.pQ := rfl
@[simp] theorem mapper_pMix (s : State) : (mapper s).pMix = s.pMix := rfl
@[simp] theorem mapper_alphaA (s : State) : (mapper s).alphaA = s.alphaA := rfl
@[simp] theorem mapper_betaA (s : State) : (mapper s).betaA = s.betaA := rfl
@[simp] theorem mapper_alphaR (s : State) : (mapper s).alphaR = s.alphaR := rfl
@[simp] theorem mapper_betaR (s : State) : (mapper s).betaR = s.betaR := rfl
@[simp] theorem mapper_gainLp (s : State) : (mapper s).gainLp = s.gainLp := rfl
@[simp] theorem mapper_minFreq (s : State) : (mapper s).minFreq = s.minFreq := rfl
@[simp] theorem mapper_freqBw (s : State) : (mapper s).freqBw = s.freqBw := rfl
@[simp] theorem mapper_qc (s : State) : (mapper s).qc = s.qc := rfl
@[simp] theorem mapper_alphaMix (s : State) : (mapper s).alphaMix = s.alphaMix := rfl
@[simp] theorem mapper_betaMix (s : State) : (mapper s).betaMix = s.betaMix := rfl
@[simp] theorem mapper_rel (s : State) : (mapper s).rel = s.rel := rfl
@[simp] theorem mapper_att (s : State) : (mapper s).att = s.att := rfl
@[simp] theorem mapper_dly (s : State) : (mapper s).dly = s.dly := rfl
@[simp] theorem mapper_cf (s : State) : (mapper s).cf = Float.fadd (Float.fmul s.att s.freqBw) s.minFreq := rfl
@[simp] theorem mapper_hp (s : State) : (mapper s).hp = s.hp := rfl
@[simp] theorem mapper_bp (s : State) : (mapper s).bp = s.bp := rfl
@[simp] theorem mapper_lp (s : State) : (mapper s).lp = s.lp := rfl
@[simp] theorem mapper_errOp (s : State) : (mapper s).errOp = s.errOp := rfl
@[simp] theorem mapper_errIdx (s : State) : (mapper s).errIdx = s.errIdx := rfl
@[simp] theorem mapper_cfgNonfinite (s : State) : (mapper s).cfgNonfinite = s.cfgNonfinite := rfl
@[simp] theorem mapper_rspq (s : State) : (mapper s).rspq = s.rspq := rfl
@[simp] theorem mapper_busy (s : State) : (mapper s).busy = s.busy := rfl
@[simp] theorem mapper_initialised (s : State) : (mapper s).initialised = s.initialised := rfl
@[simp] theorem mapper_inputs (s : State) : (mapper s).inputs = s.inputs := rfl
@[simp] theorem mapper_impl (s : State) : (mapper s).impl = s.impl := rfl

@[simp] theorem preLowpass_pTauA (x : F32) (s : State) : (preLowpass x s).pTauA = s.pTauA := rfl
@[simp] theorem preLowpass_pTauR (x : F32) (s : State) : (preLowpass x s).pTauR = s.pTauR := rfl
@[simp] theorem preLowpass_pMinF (x : F32) (s : State) : (preLowpass x s).pMinF = s.pMinF := rfl
@[simp] theorem preLowpass_pMaxF (x : F32) (s : State) : (preLowpass x s).pMaxF = s.pMaxF := rfl
@[simp] theorem preLowpass_pQ (x : F32) (s : State) : (preLowpass x s).pQ = s.pQ := rfl
@[simp] theorem preLowpass_pMix (x : F32) (s : State) : (preLowpass x s).pMix = s.pMix := rfl
@[simp] theorem preLowpass_alphaA (x : F32) (s : State) : (preLowpass x s).alphaA = s.alphaA := rfl
@[simp] theorem preLowpass_betaA (x : F32) (s : State) : (preLowpass x s).betaA = s.betaA := rfl
@[simp] theorem preLowpass_alphaR (x : F32) (s : State) : (preLowpass x s).alphaR = s.alphaR := rfl
@[simp] theorem preLowpass_betaR (x : F32) (s : State) : (preLowpass x s).betaR = s.betaR := rfl
@[simp] theorem preLowpass_gainLp (x : F32) (s : State) : (preLowpass x s).gainLp = s.gainLp := rfl
@[simp] theorem preLowpass_minFreq (x : F32) (s : State) : (preLowpass x s).minFreq = s.minFreq := rfl
@[simp] theorem preLowpass_freqBw (x : F32) (s : State) : (preLowpass x s).freqBw = s.freqBw := rfl
@[simp] theorem preLowpass_qc (x : F32) (s : State) : (preLowpass x s).qc = s.qc := rfl
@[simp] theorem preLowpass_alphaMix (x : F32) (s : State) : (preLowpass x s).alphaMix = s.alphaMix := rfl
@[simp] theorem preLowpass_betaMix (x : F32) (s : State) : (preLowpass x s).betaMix = s.betaMix := rfl
@[simp] theorem preLowpass_rel (x : F32) (s : State) : (preLowpass x s).rel = s.rel := rfl
@[simp] theorem preLowpass_att (x : F32) (s : State) : (preLowpass x s).att = s.att := rfl
@[simp] theorem preLowpass_dly (x : F32) (s : State) : (preLowpass x s).dly = lowpassXh x s := rfl
@[simp] theorem preLowpass_cf (x : F32) (s : State) : (preLowpass x s).cf = s.cf := rfl
@[simp] theorem preLowpass_hp (x : F32) (s : State) : (preLowpass x s).hp = s.hp := rfl
@[simp] theorem preLowpass_bp (x : F32) (s : State) : (preLowpass x s).bp = s.bp := rfl
@[simp] theorem preLowpass_lp (x : F32) (s : State) : (preLowpass x s).lp = s.lp := rfl
@[simp] theorem preLowpass_errOp (x : F32) (s : State) : (preLowpass x s).errOp = s.errOp := rfl
@[simp] theorem preLowpass_errIdx (x : F32) (s : State) : (preLowpass x s).errIdx = s.errIdx := rfl
@[simp] theorem preLowpass_cfgNonfinite (x : F32) (s : State) :
    (preLowpass x s).cfgNonfinite = s.cfgNonfinite := rfl
@[simp] theorem preLowpass_rspq (x : F32) (s : State) : (preLowpass x s).rspq = s.rspq := rfl
@[simp] theorem preLowpass_busy (x : F32) (s : State) : (preLowpass x s).busy = s.busy := rfl
@[simp] theorem preLowpass_initialised (x : F32) (s : State) : (preLowpass x s).initialised = s.initialised := rfl
@[simp] theorem preLowpass_inputs (x : F32) (s : State) : (preLowpass x s).inputs = s.inputs := rfl
@[simp] theorem preLowpass_impl (x : F32) (s : State) : (preLowpass x s).impl = s.impl := rfl

@[simp] theorem stateVariableFilter_pTauA (xf : F32) (s : State) :
    (stateVariableFilter xf s).pTauA = s.pTauA := rfl
@[simp] theorem stateVariableFilter_pTauR (xf : F32) (s : State) :
    (stateVariableFilter xf s).pTauR = s.pTauR := rfl
@[simp] theorem stateVariableFilter_pMinF (xf : F32) (s : State) :
    (stateVariableFilter xf s).pMinF = s.pMinF := rfl
@[simp] theorem stateVariableFilter_pMaxF (xf : F32) (s : State) :
    (stateVariableFilter xf s).pMaxF = s.pMaxF := rfl
@[simp] theorem stateVariableFilter_pQ (xf : F32) (s : State) : (stateVariableFilter xf s).pQ = s.pQ := rfl
@[simp] theorem stateVariableFilter_pMix (xf : F32) (s : State) : (stateVariableFilter xf s).pMix = s.pMix := rfl
@[simp] theorem stateVariableFilter_alphaA (xf : F32) (s : State) :
    (stateVariableFilter xf s).alphaA = s.alphaA := rfl
@[simp] theorem stateVariableFilter_betaA (xf : F32) (s : State) :
    (stateVariableFilter xf s).betaA = s.betaA := rfl
@[simp] theorem stateVariableFilter_alphaR (xf : F32) (s : State) :
    (stateVariableFilter xf s).alphaR = s.alphaR := rfl
@[simp] theorem stateVariableFilter_betaR (xf : F32) (s : State) :
    (stateVariableFilter xf s).betaR = s.betaR := rfl
@[simp] theorem stateVariableFilter_gainLp (xf : F32) (s : State) :
    (stateVariableFilter xf s).gainLp = s.gainLp := rfl
@[simp] theorem stateVariableFilter_minFreq (xf : F32) (s : State) :
    (stateVariableFilter xf s).minFreq = s.minFreq := rfl
@[simp] theorem stateVariableFilter_freqBw (xf : F32) (s : State) :
    (stateVariableFilter xf s).freqBw = s.freqBw := rfl
@[simp] theorem stateVariableFilter_qc (xf : F32) (s : State) : (stateVariableFilter xf s).qc = s.qc := rfl
@[simp] theorem stateVariableFilter_alphaMix (xf : F32) (s : State) :
    (stateVariableFilter xf s).alphaMix = s.alphaMix := rfl
@[simp] theorem stateVariableFilter_betaMix (xf : F32) (s : State) :
    (stateVariableFilter xf s).betaMix = s.betaMix := rfl
@[simp] theorem stateVariableFilter_rel (xf : F32) (s : State) : (stateVariableFilter xf s).rel = s.rel := rfl
@[simp] theorem stateVariableFilter_att (xf : F32) (s : State) : (stateVariableFilter xf s).att = s.att := rfl
@[simp] theorem stateVariableFilter_dly (xf : F32) (s : State) : (stateVariableFilter xf s).dly = s.dly := rfl
@[simp] theorem stateVariableFilter_cf (xf : F32) (s : State) : (stateVariableFilter xf s).cf = s.cf := rfl
@[simp] theorem stateVariableFilter_hp (xf : F32) (s : State) :
    (stateVariableFilter xf s).hp = Float.fsub (Float.fsub xf s.lp) (Float.fmul s.qc s.bp) := rfl
@[simp] theorem stateVariableFilter_bp (xf : F32) (s : State) :
    (stateVariableFilter xf s).bp = Float.fadd s.bp (Float.fmul (svfF s.cf) (Float.fsub (Float.fsub xf s.lp) (Float.fmul s.qc s.bp))) := rfl
@[simp] theorem stateVariableFilter_lp (xf : F32) (s : State) :
    (stateVariableFilter xf s).lp = Float.fadd s.lp (Float.fmul (svfF s.cf)
      (Float.fadd s.bp (Float.fmul (svfF s.cf) (Float.fsub (Float.fsub xf s.lp) (Float.fmul s.qc s.bp))))) := rfl
@[simp] theorem stateVariableFilter_errOp (xf : F32) (s : State) :
    (stateVariableFilter xf s).errOp = s.errOp := rfl
@[simp] theorem stateVariableFilter_errIdx (xf : F32) (s : State) :
    (stateVariableFilter xf s).errIdx = s.errIdx := rfl
@[simp] theorem stateVariableFilter_cfgNonfinite (xf : F32) (s : State) :
    (stateVariableFilter xf s).cfgNonfinite = s.cfgNonfinite := rfl
@[simp] theorem stateVariableFilter_rspq (xf : F32) (s : State) : (stateVariableFilter xf s).rspq = s.rspq := rfl
@[simp] theorem stateVariableFilter_busy (xf : F32) (s : State) : (stateVariableFilter xf s).busy = s.busy := rfl
@[simp] theorem stateVariableFilter_initialised (xf : F32) (s : State) :
    (stateVariableFilter xf s).initialised = s.initialised := rfl
@[simp] theorem stateVariableFilter_inputs (xf : F32) (s : State) :
    (stateVariableFilter xf s).inputs = s.inputs := rfl
@[simp] theorem stateVariableFilter_impl (xf : F32) (s : State) : (stateVariableFilter xf s).impl = s.impl := rfl

@[simp] theorem tick_pTauA (s : State) : (tick s).pTauA = s.pTauA := rfl
@[simp] theorem tick_pTauR (s : State) : (tick s).pTauR = s.pTauR := rfl
@[simp] theorem tick_pMinF (s : State) : (tick s).pMinF = s.pMinF := rfl
@[simp] theorem tick_pMaxF (s : State) : (tick s).pMaxF = s.pMaxF := rfl
@[simp] theorem tick_pQ (s : State) : (tick s).pQ = s.pQ := rfl
@[simp] theorem tick_pMix (s : State) : (tick s).pMix = s.pMix := rfl
@[simp] theorem tick_alphaA (s : State) : (tick s).alphaA = s.alphaA := rfl
@[simp] theorem tick_betaA (s : State) : (tick s).betaA = s.betaA := rfl
@[simp] theorem tick_alphaR (s : State) : (tick s).alphaR = s.alphaR := rfl
@[simp] theorem tick_betaR (s : State) : (tick s).betaR = s.betaR := rfl
@[simp] theorem tick_gainLp (s : State) : (tick s).gainLp = s.gainLp := rfl
@[simp] theorem tick_minFreq (s : State) : (tick s).minFreq = s.minFreq := rfl
@[simp] theorem tick_freqBw (s : State) : (tick s).freqBw = s.freqBw := rfl
@[simp] theorem tick_qc (s : State) : (tick s).qc = s.qc := rfl
@[simp] theorem tick_alphaMix (s : State) : (tick s).alphaMix = s.alphaMix := rfl
@[simp] theorem tick_betaMix (s : State) : (tick s).betaMix = s.betaMix := rfl
@[simp] theorem tick_rel (s : State) : (tick s).rel = s.rel := rfl
@[simp] theorem tick_att (s : State) : (tick s).att = s.att := rfl
@[simp] theorem tick_dly (s : State) : (tick s).dly = s.dly := rfl
@[simp] theorem tick_cf (s : State) : (tick s).cf = s.cf := rfl
@[simp] theorem tick_hp (s : State) : (tick s).hp = s.hp := rfl
@[simp] theorem tick_bp (s : State) : (tick s).bp = s.bp := rfl
@[simp] theorem tick_lp (s : State) : (tick s).lp = s.lp := rfl
@[simp] theorem tick_errOp (s : State) : (tick s).errOp = s.errOp := rfl
@[simp] theorem tick_errIdx (s : State) : (tick s).errIdx = s.errIdx := rfl
@[simp] theorem tick_cfgNonfinite (s : State) : (tick s).cfgNonfinite = s.cfgNonfinite := rfl
@[simp] theorem tick_rspq (s : State) : (tick s).rspq = s.rspq.map Response.tick := rfl
@[simp] theorem tick_busy (s : State) : (tick s).busy = s.busy - 1 := rfl
@[simp] theorem tick_initialised (s : State) : (tick s).initialised = s.initialised := rfl
@[simp] theorem tick_inputs (s : State) : (tick s).inputs = s.inputs.tail := rfl
@[simp] theorem tick_impl (s : State) : (tick s).impl = s.impl := rfl

@[simp] theorem takeResponse_pTauA (e : PortEdge) (s : State) :
    (takeResponse e s).pTauA = s.pTauA := by unfold takeResponse; split <;> rfl
@[simp] theorem takeResponse_pTauR (e : PortEdge) (s : State) :
    (takeResponse e s).pTauR = s.pTauR := by unfold takeResponse; split <;> rfl
@[simp] theorem takeResponse_pMinF (e : PortEdge) (s : State) :
    (takeResponse e s).pMinF = s.pMinF := by unfold takeResponse; split <;> rfl
@[simp] theorem takeResponse_pMaxF (e : PortEdge) (s : State) :
    (takeResponse e s).pMaxF = s.pMaxF := by unfold takeResponse; split <;> rfl
@[simp] theorem takeResponse_pQ (e : PortEdge) (s : State) :
    (takeResponse e s).pQ = s.pQ := by unfold takeResponse; split <;> rfl
@[simp] theorem takeResponse_pMix (e : PortEdge) (s : State) :
    (takeResponse e s).pMix = s.pMix := by unfold takeResponse; split <;> rfl
@[simp] theorem takeResponse_alphaA (e : PortEdge) (s : State) :
    (takeResponse e s).alphaA = s.alphaA := by unfold takeResponse; split <;> rfl
@[simp] theorem takeResponse_betaA (e : PortEdge) (s : State) :
    (takeResponse e s).betaA = s.betaA := by unfold takeResponse; split <;> rfl
@[simp] theorem takeResponse_alphaR (e : PortEdge) (s : State) :
    (takeResponse e s).alphaR = s.alphaR := by unfold takeResponse; split <;> rfl
@[simp] theorem takeResponse_betaR (e : PortEdge) (s : State) :
    (takeResponse e s).betaR = s.betaR := by unfold takeResponse; split <;> rfl
@[simp] theorem takeResponse_gainLp (e : PortEdge) (s : State) :
    (takeResponse e s).gainLp = s.gainLp := by unfold takeResponse; split <;> rfl
@[simp] theorem takeResponse_minFreq (e : PortEdge) (s : State) :
    (takeResponse e s).minFreq = s.minFreq := by unfold takeResponse; split <;> rfl
@[simp] theorem takeResponse_freqBw (e : PortEdge) (s : State) :
    (takeResponse e s).freqBw = s.freqBw := by unfold takeResponse; split <;> rfl
@[simp] theorem takeResponse_qc (e : PortEdge) (s : State) :
    (takeResponse e s).qc = s.qc := by unfold takeResponse; split <;> rfl
@[simp] theorem takeResponse_alphaMix (e : PortEdge) (s : State) :
    (takeResponse e s).alphaMix = s.alphaMix := by unfold takeResponse; split <;> rfl
@[simp] theorem takeResponse_betaMix (e : PortEdge) (s : State) :
    (takeResponse e s).betaMix = s.betaMix := by unfold takeResponse; split <;> rfl
@[simp] theorem takeResponse_rel (e : PortEdge) (s : State) :
    (takeResponse e s).rel = s.rel := by unfold takeResponse; split <;> rfl
@[simp] theorem takeResponse_att (e : PortEdge) (s : State) :
    (takeResponse e s).att = s.att := by unfold takeResponse; split <;> rfl
@[simp] theorem takeResponse_dly (e : PortEdge) (s : State) :
    (takeResponse e s).dly = s.dly := by unfold takeResponse; split <;> rfl
@[simp] theorem takeResponse_cf (e : PortEdge) (s : State) :
    (takeResponse e s).cf = s.cf := by unfold takeResponse; split <;> rfl
@[simp] theorem takeResponse_hp (e : PortEdge) (s : State) :
    (takeResponse e s).hp = s.hp := by unfold takeResponse; split <;> rfl
@[simp] theorem takeResponse_bp (e : PortEdge) (s : State) :
    (takeResponse e s).bp = s.bp := by unfold takeResponse; split <;> rfl
@[simp] theorem takeResponse_lp (e : PortEdge) (s : State) :
    (takeResponse e s).lp = s.lp := by unfold takeResponse; split <;> rfl
@[simp] theorem takeResponse_errOp (e : PortEdge) (s : State) :
    (takeResponse e s).errOp = s.errOp := by unfold takeResponse; split <;> rfl
@[simp] theorem takeResponse_errIdx (e : PortEdge) (s : State) :
    (takeResponse e s).errIdx = s.errIdx := by unfold takeResponse; split <;> rfl
@[simp] theorem takeResponse_cfgNonfinite (e : PortEdge) (s : State) :
    (takeResponse e s).cfgNonfinite = s.cfgNonfinite := by unfold takeResponse; split <;> rfl
@[simp] theorem takeResponse_rspq (e : PortEdge) (s : State) :
    (takeResponse e s).rspq = if rspValid e.rst s && e.rspReady then s.rspq.tail else s.rspq := by unfold takeResponse; split <;> rfl
@[simp] theorem takeResponse_busy (e : PortEdge) (s : State) :
    (takeResponse e s).busy = s.busy := by unfold takeResponse; split <;> rfl
@[simp] theorem takeResponse_initialised (e : PortEdge) (s : State) :
    (takeResponse e s).initialised = s.initialised := by unfold takeResponse; split <;> rfl
@[simp] theorem takeResponse_inputs (e : PortEdge) (s : State) :
    (takeResponse e s).inputs = s.inputs := by unfold takeResponse; split <;> rfl
@[simp] theorem takeResponse_impl (e : PortEdge) (s : State) :
    (takeResponse e s).impl = s.impl := by unfold takeResponse; split <;> rfl

@[simp] theorem beginCommand_pTauA (s : State) : (beginCommand s).pTauA = s.pTauA := rfl
@[simp] theorem beginCommand_pTauR (s : State) : (beginCommand s).pTauR = s.pTauR := rfl
@[simp] theorem beginCommand_pMinF (s : State) : (beginCommand s).pMinF = s.pMinF := rfl
@[simp] theorem beginCommand_pMaxF (s : State) : (beginCommand s).pMaxF = s.pMaxF := rfl
@[simp] theorem beginCommand_pQ (s : State) : (beginCommand s).pQ = s.pQ := rfl
@[simp] theorem beginCommand_pMix (s : State) : (beginCommand s).pMix = s.pMix := rfl
@[simp] theorem beginCommand_alphaA (s : State) : (beginCommand s).alphaA = s.alphaA := rfl
@[simp] theorem beginCommand_betaA (s : State) : (beginCommand s).betaA = s.betaA := rfl
@[simp] theorem beginCommand_alphaR (s : State) : (beginCommand s).alphaR = s.alphaR := rfl
@[simp] theorem beginCommand_betaR (s : State) : (beginCommand s).betaR = s.betaR := rfl
@[simp] theorem beginCommand_gainLp (s : State) : (beginCommand s).gainLp = s.gainLp := rfl
@[simp] theorem beginCommand_minFreq (s : State) : (beginCommand s).minFreq = s.minFreq := rfl
@[simp] theorem beginCommand_freqBw (s : State) : (beginCommand s).freqBw = s.freqBw := rfl
@[simp] theorem beginCommand_qc (s : State) : (beginCommand s).qc = s.qc := rfl
@[simp] theorem beginCommand_alphaMix (s : State) : (beginCommand s).alphaMix = s.alphaMix := rfl
@[simp] theorem beginCommand_betaMix (s : State) : (beginCommand s).betaMix = s.betaMix := rfl
@[simp] theorem beginCommand_rel (s : State) : (beginCommand s).rel = s.rel := rfl
@[simp] theorem beginCommand_att (s : State) : (beginCommand s).att = s.att := rfl
@[simp] theorem beginCommand_dly (s : State) : (beginCommand s).dly = s.dly := rfl
@[simp] theorem beginCommand_cf (s : State) : (beginCommand s).cf = s.cf := rfl
@[simp] theorem beginCommand_hp (s : State) : (beginCommand s).hp = s.hp := rfl
@[simp] theorem beginCommand_bp (s : State) : (beginCommand s).bp = s.bp := rfl
@[simp] theorem beginCommand_lp (s : State) : (beginCommand s).lp = s.lp := rfl
@[simp] theorem beginCommand_errOp (s : State) : (beginCommand s).errOp = s.errOp := rfl
@[simp] theorem beginCommand_errIdx (s : State) : (beginCommand s).errIdx = s.errIdx := rfl
@[simp] theorem beginCommand_cfgNonfinite (s : State) : (beginCommand s).cfgNonfinite = s.cfgNonfinite := rfl
@[simp] theorem beginCommand_rspq (s : State) : (beginCommand s).rspq = s.rspq := rfl
@[simp] theorem beginCommand_busy (s : State) : (beginCommand s).busy = s.impl.iiExtra := rfl
@[simp] theorem beginCommand_initialised (s : State) : (beginCommand s).initialised = s.initialised := rfl
@[simp] theorem beginCommand_inputs (s : State) : (beginCommand s).inputs = s.inputs := rfl
@[simp] theorem beginCommand_impl (s : State) : (beginCommand s).impl = s.impl := rfl

/-! ## A reset: the default construction, STATUS, RSPQ and the timers cleared -/

@[simp] theorem resetBlock_pTauA (s : State) : (resetBlock s).pTauA = Config.defaultTauA := rfl
@[simp] theorem resetBlock_pTauR (s : State) : (resetBlock s).pTauR = Config.defaultTauR := rfl
@[simp] theorem resetBlock_pMinF (s : State) : (resetBlock s).pMinF = Config.defaultMinF := rfl
@[simp] theorem resetBlock_pMaxF (s : State) : (resetBlock s).pMaxF = Config.defaultMaxF := rfl
@[simp] theorem resetBlock_pQ (s : State) : (resetBlock s).pQ = Config.defaultQ := rfl
@[simp] theorem resetBlock_pMix (s : State) : (resetBlock s).pMix = Config.defaultMix := rfl
@[simp] theorem resetBlock_alphaA (s : State) : (resetBlock s).alphaA = (construct (loadDefaults s)).alphaA := rfl
@[simp] theorem resetBlock_betaA (s : State) : (resetBlock s).betaA = (construct (loadDefaults s)).betaA := rfl
@[simp] theorem resetBlock_alphaR (s : State) : (resetBlock s).alphaR = (construct (loadDefaults s)).alphaR := rfl
@[simp] theorem resetBlock_betaR (s : State) : (resetBlock s).betaR = (construct (loadDefaults s)).betaR := rfl
@[simp] theorem resetBlock_gainLp (s : State) : (resetBlock s).gainLp = (construct (loadDefaults s)).gainLp := rfl
@[simp] theorem resetBlock_minFreq (s : State) : (resetBlock s).minFreq = (construct (loadDefaults s)).minFreq := rfl
@[simp] theorem resetBlock_freqBw (s : State) : (resetBlock s).freqBw = (construct (loadDefaults s)).freqBw := rfl
@[simp] theorem resetBlock_qc (s : State) : (resetBlock s).qc = (construct (loadDefaults s)).qc := rfl
@[simp] theorem resetBlock_alphaMix (s : State) : (resetBlock s).alphaMix = (construct (loadDefaults s)).alphaMix := rfl
@[simp] theorem resetBlock_betaMix (s : State) : (resetBlock s).betaMix = (construct (loadDefaults s)).betaMix := rfl
@[simp] theorem resetBlock_rel (s : State) : (resetBlock s).rel = Config.zero := rfl
@[simp] theorem resetBlock_att (s : State) : (resetBlock s).att = Config.zero := rfl
@[simp] theorem resetBlock_dly (s : State) : (resetBlock s).dly = Config.zero := rfl
@[simp] theorem resetBlock_cf (s : State) : (resetBlock s).cf = Config.zero := rfl
@[simp] theorem resetBlock_hp (s : State) : (resetBlock s).hp = Config.zero := rfl
@[simp] theorem resetBlock_bp (s : State) : (resetBlock s).bp = Config.zero := rfl
@[simp] theorem resetBlock_lp (s : State) : (resetBlock s).lp = Config.zero := rfl
@[simp] theorem resetBlock_errOp (s : State) : (resetBlock s).errOp = false := rfl
@[simp] theorem resetBlock_errIdx (s : State) : (resetBlock s).errIdx = false := rfl
@[simp] theorem resetBlock_cfgNonfinite (s : State) : (resetBlock s).cfgNonfinite = false := rfl
@[simp] theorem resetBlock_rspq (s : State) : (resetBlock s).rspq = [] := rfl
@[simp] theorem resetBlock_busy (s : State) : (resetBlock s).busy = 0 := rfl
@[simp] theorem resetBlock_initialised (s : State) : (resetBlock s).initialised = true := rfl
@[simp] theorem resetBlock_inputs (s : State) : (resetBlock s).inputs = s.inputs := rfl
@[simp] theorem resetBlock_impl (s : State) : (resetBlock s).impl = s.impl := rfl

end Sys2Proof.Machine
end

