-- ==== Sys2Proof/Laws/Ops.lean ====
section
/-! SUPPORT. What each shared operation and each command can do, said once. -/

namespace Sys2Proof.Machine

/-! ## Operands -/

theorem paramOfIdx_idxOfParam (p : ParamReg) : paramOfIdx (idxOfParam p) = some p := by cases p <;> rfl

theorem regOfIdx_idxOfReg (r : Reg) : regOfIdx (idxOfReg r) = some r := by
  cases r with
  | param p => cases p <;> rfl
  | _ => rfl

/-- An index names a parameter register exactly when it is at most 5, and then it is that register's index. -/
theorem paramOfIdx_cases (idx : RegIdx) :
    (∃ p, paramOfIdx idx = some p ∧ idx = idxOfParam p ∧ idx.toNat ≤ 5) ∨ (paramOfIdx idx = none ∧ 6 ≤ idx.toNat) := by
  revert idx; decide

/-- An index names a register exactly when it is at most 24, and then it is that register's index. -/
theorem regOfIdx_cases (idx : RegIdx) :
    (∃ r, regOfIdx idx = some r ∧ idx = idxOfReg r ∧ idx.toNat ≤ 24) ∨ (regOfIdx idx = none ∧ 25 ≤ idx.toNat) := by
  have h := idx.isLt
  obtain ⟨n, hn⟩ : ∃ n, idx.toNat = n := ⟨_, rfl⟩
  have e : idx = BitVec.ofNat 5 n := by rw [← hn]; simp
  rw [hn] at h; subst e
  interval_cases n <;> first
    | exact .inr ⟨rfl, by decide⟩
    | exact .inl ⟨_, rfl, rfl, by decide⟩

theorem readParam_writeParam (p p' : ParamReg) (v : F32) (s : State) :
    readParam p (writeParam p' v s) = if p' = p then v else readParam p s := by
  cases p <;> cases p' <;> rfl

/-- What a register reads after a response is emitted. -/
@[simp] theorem readReg_emit (r : Reg) (k : RspKind) (d : F32) (s : State) : readReg r (emit k d s) = readReg r s := by
  cases r with
  | param p => cases p <;> rfl
  | _ => rfl

/-- What a register reads after the clock edge passes. -/
@[simp] theorem readReg_tick (r : Reg) (s : State) : readReg r (tick s) = readReg r s := by
  cases r with
  | param p => cases p <;> rfl
  | _ => rfl

@[simp] theorem readReg_takeResponse (r : Reg) (e : PortEdge) (s : State) :
    readReg r (takeResponse e s) = readReg r s := by
  unfold takeResponse; split
  · cases r with
    | param p => cases p <;> rfl
    | _ => rfl
  · rfl

@[simp] theorem readReg_beginCommand (r : Reg) (s : State) : readReg r (beginCommand s) = readReg r s := by
  cases r with
  | param p => cases p <;> rfl
  | _ => rfl

/-! ## Reset -/

/-- A reset leaves the coefficients of the default construction. -/
theorem agree_resetBlock (s : State) :
    Safety.Agree Safety.isCoefficient (resetBlock s) (construct (loadDefaults (resetBlock s))) := by
  intro r h
  cases r <;> first | exact absurd h Bool.false_ne_true | rfl

/-! ## The response word -/

/-- KIND is bit 32 of a response word. -/
theorem Response.kind_word (q : Response) :
    q.word.getLsbD 32 = match q.kind with | .sample => false | .peek => true := by
  unfold Response.word
  rw [BitVec.getLsbD_append]
  cases q.kind <;> simp

/-- DATA is the rest of it. -/
theorem Response.data_word (q : Response) : q.word.extractLsb' 0 32 = q.data := by
  apply BitVec.eq_of_getLsbD_eq
  intro i hi
  rw [BitVec.getLsbD_extractLsb', Response.word, BitVec.getLsbD_append]
  simp [hi]

/-! ## Commands -/

/-- What a command makes of the state, as a function: `exec` always answers it. -/
def after (i : Instr) (s : State) : State :=
  match i with
  | .nop => s
  | .setp idx data => match paramOfIdx idx with
    | some p => writeParam p data s
    | none => setStatus .errIdx s
  | .construct => construct s
  | .defaults => construct (loadDefaults s)
  | .process x => emit .sample (mixer x (processRegs x s)) (processRegs x s)
  | .peek idx => match regOfIdx idx with
    | some r => emit .peek (readReg r s) s
    | none => emit .peek 0x00000000#32 (setStatus .errIdx s)
  | .reserved110 => setStatus .errOp s
  | .reserved111 => setStatus .errOp s

/-- Every command completes, with the state `after` gives. -/
theorem exec_eq (i : Instr) (s : State) : exec i s = .next (after i s) := by
  cases i with
  | setp idx data => simp only [exec, execSetp, after]; cases paramOfIdx idx <;> rfl
  | peek idx => simp only [exec, execPeek, after]; cases regOfIdx idx <;> rfl
  | _ => rfl

theorem exec_next_iff {i : Instr} {s t : State} : exec i s = .next t ↔ t = after i s := by
  rw [exec_eq]; constructor
  · intro h; cases h; rfl
  · rintro rfl; rfl

/-- The responses a command emits. -/
theorem after_rspq (i : Instr) (s : State) :
    (after i s).rspq = s.rspq ++ match i with
      | .process x => [⟨.sample, mixer x (processRegs x s), s.impl.latencyExtra⟩]
      | .peek idx => [⟨.peek, match regOfIdx idx with | some r => readReg r s | none => 0#32, s.impl.latencyExtra⟩]
      | _ => [] := by
  cases i with
  | setp idx data => simp only [after]; cases paramOfIdx idx <;> simp
  | peek idx => simp only [after]; cases regOfIdx idx <;> simp
  | process x => simp [after, processRegs]
  | construct => simp [after, construct]
  | defaults => simp [after, construct]
  | _ => simp [after]

/-- Only a PROCESS adds to the SAMPLE responses. -/
theorem samples_after (i : Instr) (s : State) :
    Safety.samples (after i s) = Safety.samples s ++ match i with
      | .process x => [mixer x (processRegs x s)]
      | _ => [] := by
  unfold Safety.samples
  rw [after_rspq]
  cases i <;> simp

/-- No command touches the timers, the reset flag, the inputs or the implementation. -/
theorem after_outside (i : Instr) (s : State) : Safety.SameOutside s (after i s) := by
  unfold Safety.SameOutside
  cases i with
  | setp idx data => simp only [after]; cases paramOfIdx idx <;> simp
  | peek idx => simp only [after]; cases regOfIdx idx <;> simp
  | process x => simp [after, processRegs]
  | construct => simp [after, construct]
  | defaults => simp [after, construct]
  | _ => simp [after]

end Sys2Proof.Machine
end

