-- ==== Sys2Proof/Laws/Rounding.lean ====
section
/-! SUPPORT. The rounding of Machine/Float.lean is the rounding of 00_scope.md R14, and the exact cases of the
arithmetic. -/

namespace Sys2Proof.Float

open Sys2Proof.Safety

/-! ## Magnitudes and values -/

theorem mag_lt {a : F32} (h : isFinite a = true) : mag a < 2 ^ 24 * 2 ^ 253 := by
  rw [isFinite_iff] at h
  rw [mag_eq_lowMag]
  have h1 : a.toNat % 2 ^ 31 < 253 * 2 ^ 23 + 2 ^ 24 := by omega
  have h2 := lowMag_strictMono h1
  rwa [lowMag_add (e := 253) (r := 2 ^ 24) (by omega) (by omega)] at h2

theorem mag_eq_zero_iff (a : F32) : mag a = 0 ↔ isZero a = true := by
  rw [isZero_iff, mag_eq_lowMag]
  have h0 : lowMag 0 = 0 := by decide
  constructor
  · intro h; rw [← h0] at h; exact lowMag_inj h
  · intro h; rw [h, h0]

theorem natAbs_val (a : F32) : (val a).natAbs = mag a := by
  unfold val; split <;> simp

theorem val_eq_zero_iff (a : F32) : val a = 0 ↔ isZero a = true := by
  rw [← mag_eq_zero_iff, ← natAbs_val]; omega

theorem val_neg_iff (a : F32) : val a < 0 ↔ sign a = true ∧ isZero a = false := by
  rw [← Bool.not_eq_true, ← mag_eq_zero_iff]
  unfold val; cases sign a <;> simp; omega

theorem val_pos_iff (a : F32) : 0 < val a ↔ sign a = false ∧ isZero a = false := by
  rw [← Bool.not_eq_true (isZero a), ← mag_eq_zero_iff]
  unfold val; cases sign a <;> simp; omega

/-- A finite pattern is the pack of its sign and its rounded magnitude: rounding is the identity on binary32. -/
theorem pack_roundMag_mag {a : F32} (h : isFinite a = true) {d : Nat} (hd : 0 < d) :
    pack (sign a) (roundMag (mag a * d) d) = a := by
  rw [mag_eq_lowMag, roundMag_lowMag (by rw [isFinite_iff] at h; omega) hd, pack_eta]

/-- The order of two finite patterns is that of their values. -/
theorem orderKey_lt_iff {a b : F32} : orderKey a < orderKey b ↔ val a < val b := by
  have key : ∀ p q : Nat, (p < q ↔ lowMag p < lowMag q) := fun p q =>
    ⟨lowMag_strictMono, fun h => by by_contra hc; have := lowMag_le_iff.2 (Nat.le_of_not_lt hc); omega⟩
  have h0 : lowMag 0 = 0 := by decide
  have hz : ∀ p : Nat, lowMag p = 0 ↔ p = 0 := fun p =>
    ⟨fun h => lowMag_inj (by rw [h, h0]), fun h => by rw [h, h0]⟩
  unfold orderKey val
  rw [mag_eq_lowMag, mag_eq_lowMag]
  generalize a.toNat % 2 ^ 31 = p
  generalize b.toNat % 2 ^ 31 = q
  have k1 := key p q; have k2 := key q p; have z1 := hz p; have z2 := hz q
  cases sign a <;> cases sign b <;> simp <;> omega

theorem orderKey_le_iff {a b : F32} : orderKey a ≤ orderKey b ↔ val a ≤ val b := by
  have := @orderKey_lt_iff b a
  omega

/-! ## The rounding is R14's -/

theorem lowMag_maxFinite : lowMag 0x7F7FFFFF = (2 ^ 24 - 1) * 2 ^ 253 := by
  have := @lowMag_add 253 (2 ^ 24 - 1) (by omega) (by omega)
  simpa using this

theorem lowMag_infinity : lowMag 0x7F800000 = 2 ^ 24 * 2 ^ 253 := by
  have := @lowMag_add 253 (2 ^ 24) (by omega) (by omega)
  simpa using this

/-- From the overflow bound on, rounding gives the infinity. -/
theorem roundMag_overflow {n d : Nat} (hd : 0 < d) (h : overflowBound * d ≤ n) : roundMag n d = 0x7F800000 := by
  apply Nat.le_antisymm (roundMag_le n d)
  have hq : quantum overflowBound = 253 := by apply quantum_of_bounds <;> norm_num [overflowBound]
  have h2 : roundMag overflowBound 1 = 0x7F800000 := by
    have : roundNat overflowBound (1 * 2 ^ 253) = 2 ^ 24 := by norm_num [roundNat, overflowBound]
    unfold roundMag; rw [Nat.div_one, hq, this]; norm_num
  rw [← h2]
  exact roundMag_mono (by omega) hd (by omega)

/-- An integer whose double lies below Y + Z is nearer to Z than to any X from Y on. -/
theorem far_of_half {X Y Z n : Int} (hYX : Y ≤ X) (hZY : Z < Y) (h : 2 * n < Y + Z) : |Z - n| < |X - n| := by
  rw [abs_of_nonneg (a := X - n) (by omega)]
  exact abs_lt.2 ⟨by omega, by omega⟩

/-- Below the overflow bound, the pattern rounded to is finite. -/
theorem round_finite {n d p : Nat} (hd : 0 < d)
    (hp : p = quantum (n / d) * 2 ^ 23 + roundNat n (d * 2 ^ quantum (n / d))) (h : n < overflowBound * d) :
    p < 0x7F800000 := by
  by_contra hc
  have near := (round_nearest n hd hp 0x7F7FFFFF).1
  refine absurd near (not_le.2 ?_)
  rw [lowMag_maxFinite]
  have hbig : d * (2 ^ 24 * 2 ^ 253) ≤ d * lowMag p := by
    rw [← lowMag_infinity]; exact Nat.mul_le_mul_left _ (lowMag_le_iff.2 (Nat.le_of_not_lt hc))
  have hlt : d * ((2 ^ 24 - 1) * 2 ^ 253) < d * (2 ^ 24 * 2 ^ 253) := Nat.mul_lt_mul_of_pos_left (by norm_num) hd
  have hsum : d * (2 ^ 24 * 2 ^ 253) + d * ((2 ^ 24 - 1) * 2 ^ 253) = 2 * (overflowBound * d) := by
    unfold overflowBound; ring_nf
  have h2 : 2 * n < d * (2 ^ 24 * 2 ^ 253) + d * ((2 ^ 24 - 1) * 2 ^ 253) := by
    rw [hsum]; exact Nat.mul_lt_mul_of_pos_left h (by norm_num)
  exact far_of_half (Y := ((d * (2 ^ 24 * 2 ^ 253) : Nat) : Int)) (by exact_mod_cast hbig) (by exact_mod_cast hlt)
    (by exact_mod_cast h2)

theorem abs_val (a : F32) : |(val a : ℝ)| = mag a := by
  unfold val; split <;> simp

/-- A signed magnitude against an exact value of the same sign: the distance is that of the magnitudes. -/
theorem abs_val_sub {a : F32} {v : ℝ} (h : v = if sign a then -|v| else |v|) :
    |(val a : ℝ) - v| = |(mag a : ℝ) - (|v|)| := by
  have h0 := abs_nonneg v
  unfold val
  cases hs : sign a <;> rw [hs] at h
  · have hv : 0 ≤ v := by simp only [Bool.false_eq_true, if_false] at h; linarith
    simp [abs_of_nonneg hv]
  · have hv : v ≤ 0 := by simp only [if_true] at h; linarith
    simp only [if_true]
    rw [abs_of_nonpos hv, ← abs_neg]; push_cast; congr 1; ring

/-- A signed magnitude against an exact value of the other sign: the distance is the sum of the magnitudes. -/
theorem abs_val_sub_of_ne {a : F32} {v : ℝ} (h : v = if sign a then |v| else -|v|) :
    |(val a : ℝ) - v| = mag a + |v| := by
  have hm : (0 : ℝ) ≤ mag a := Nat.cast_nonneg _
  have h0 := abs_nonneg v
  unfold val
  cases hs : sign a <;> rw [hs] at h
  · have hv : v ≤ 0 := by simp only [Bool.false_eq_true, if_false] at h; linarith
    simp only [Bool.false_eq_true, if_false]
    rw [abs_of_nonpos hv, abs_of_nonneg (by push_cast; linarith)]; push_cast; ring
  · have hv : 0 ≤ v := by simp only [if_true] at h; linarith
    simp only [if_true]
    rw [abs_of_nonneg hv, abs_of_nonpos (by push_cast; linarith)]; push_cast; ring

/-- What the rounding makes of an exact value of magnitude n / d units is what R14 asks. -/
theorem roundsTo_pack {v : ℝ} {b : Bool} {n d : Nat} (hd : 0 < d) (hv : |v| = (n : ℝ) / d)
    (hb : 0 < n → (b = true ↔ v < 0)) : RoundsTo v (pack b (roundMag n d)) := by
  have hd' : (0 : ℝ) < d := by exact_mod_cast hd
  have hnv : (n : ℝ) = |v| * d := by rw [hv]; field_simp
  have hm : roundMag n d < 2 ^ 31 := by have := roundMag_le n d; omega
  have hsgn : sign (pack b (roundMag n d)) = b := pack_sign b hm
  have hpos : v ≠ 0 → 0 < n := by
    intro h
    have : (0 : ℝ) < n := by rw [hnv]; exact mul_pos (abs_pos.2 h) hd'
    exact_mod_cast this
  have hov : (overflowBound : ℝ) ≤ |v| → overflowBound * d ≤ n := by
    intro h
    have : ((overflowBound * d : Nat) : ℝ) ≤ n := by
      rw [hnv]; push_cast; exact mul_le_mul_of_nonneg_right h hd'.le
    exact_mod_cast this
  have hB : (0 : ℝ) < (overflowBound : ℝ) := by norm_num [overflowBound]
  have hneg : v < 0 → b = true := fun h => (hb (hpos h.ne)).2 h
  have hnn : 0 < v → b = false := by
    intro h
    cases hbb : b
    · rfl
    · exact absurd ((hb (hpos h.ne')).1 hbb) (by linarith)
  refine ⟨fun h => ?_, fun h => ?_, fun h => ?_, fun h => by rw [hsgn, hneg h], fun h => by rw [hsgn, hnn h]⟩
  · rw [roundMag_overflow hd (hov (le_trans h (le_abs_self v))), hnn (by linarith)]; decide
  · rw [roundMag_overflow hd (hov (le_trans (by linarith) (neg_le_abs v))), hneg (by linarith)]; decide
  · obtain ⟨p, hp⟩ : ∃ p, p = quantum (n / d) * 2 ^ 23 + roundNat n (d * 2 ^ quantum (n / d)) := ⟨_, rfl⟩
    have hpf : p < 0x7F800000 := by
      apply round_finite hd hp
      have : (n : ℝ) < ((overflowBound * d : Nat) : ℝ) := by
        rw [hnv]; push_cast; exact mul_lt_mul_of_pos_right h hd'
      exact_mod_cast this
    have hrp : roundMag n d = p := by unfold roundMag; rw [← hp]; omega
    rw [hrp] at hsgn ⊢
    have hmagp : mag (pack b p) = lowMag p := mag_pack b (by omega)
    refine ⟨isFinite_pack hpf, fun c _ => ?_⟩
    obtain ⟨near, tie⟩ := round_nearest n hd hp (c.toNat % 2 ^ 31)
    rw [← mag_eq_lowMag] at near tie
    have scale : ∀ m : Nat, ((|(d : Int) * (m : Int) - n| : Int) : ℝ) = d * |(m : ℝ) - (|v|)| := by
      intro m
      have e : (((d : Int) * (m : Int) - n : Int) : ℝ) = d * ((m : ℝ) - |v|) := by push_cast; rw [hnv]; ring
      rw [Int.cast_abs, e, abs_mul, abs_of_pos hd']
    have nearR : |(lowMag p : ℝ) - (|v|)| ≤ |(mag c : ℝ) - (|v|)| := by
      have := (Int.cast_le (R := ℝ)).2 near
      rw [scale, scale] at this
      exact le_of_mul_le_mul_left this hd'
    have hvs : v = if b then -|v| else |v| := by
      rcases lt_trichotomy v 0 with h0 | h0 | h0
      · rw [hneg h0, abs_of_neg h0]; simp
      · rw [h0]; simp
      · rw [hnn h0, abs_of_pos h0]; simp
    have hdist : |(val (pack b p) : ℝ) - v| = |(lowMag p : ℝ) - (|v|)| := by
      rw [abs_val_sub (by rw [hsgn]; exact hvs), hmagp]
    have hdistc : |(mag c : ℝ) - (|v|)| ≤ |(val c : ℝ) - v| := by rw [← abs_val]; exact abs_abs_sub_abs_le _ _
    rw [hdist]
    refine ⟨nearR.trans hdistc, fun heq hne => ?_⟩
    have hpar : (pack b p).toNat % 2 = p % 2 := by rw [pack_toNat b (by omega)]; split <;> omega
    rw [hpar]
    by_cases hcp : c.toNat % 2 ^ 31 = p
    · -- the same magnitude with the other sign is as near only where both are zero
      have hmc : mag c = lowMag p := by rw [mag_eq_lowMag, hcp]
      have hcne : sign c ≠ b := by
        intro hs; apply hne; unfold val; rw [hsgn, hmagp, hmc, hs]
      have hfar := abs_val_sub_of_ne (a := c) (v := v) (by
        have hs : sign c = !b := by
          clear * - hcne
          revert hcne; cases sign c <;> cases b <;> simp
        rw [hs]; cases b <;> exact hvs)
      rw [hfar, hmc] at heq
      have h1 := abs_nonneg v
      have h2 : (0 : ℝ) ≤ lowMag p := Nat.cast_nonneg _
      have hz : (lowMag p : ℝ) = 0 ∨ |v| = 0 := by
        rcases abs_cases ((lowMag p : ℝ) - |v|) with ⟨h3, h4⟩ | ⟨h3, h4⟩
        · right; linarith
        · left; linarith
      have hp0 : p = 0 := by
        rcases hz with hz | hz
        · have h0 : lowMag 0 = 0 := by decide
          exact lowMag_inj (by rw [h0]; exact_mod_cast hz)
        · have hn0 : n = 0 := by
            have : (n : ℝ) = 0 := by rw [hnv, hz]; simp
            exact_mod_cast this
          have hr0 := roundNat_mul 0 (d := d * 2 ^ quantum 0) (Nat.mul_pos hd (Nat.pow_pos (by norm_num)))
          rw [Nat.zero_mul] at hr0
          rw [hp, hn0, Nat.zero_div, hr0]; rfl
      rw [hp0]
    · apply tie _ hcp
      have heq' : |(lowMag p : ℝ) - (|v|)| = |(mag c : ℝ) - (|v|)| := le_antisymm nearR (by rw [heq]; exact hdistc)
      have : ((|(d : Int) * (lowMag p : Int) - n| : Int) : ℝ) = ((|(d : Int) * (mag c : Int) - n| : Int) : ℝ) := by
        rw [scale, scale, heq']
      exact_mod_cast this

/-! ## The square root -/

theorem sqrtBits_spec (n k r : Nat) (h1 : r * r ≤ n) (h2 : n < (r + 2 ^ k) * (r + 2 ^ k)) :
    sqrtBits n k r * sqrtBits n k r ≤ n ∧ n < (sqrtBits n k r + 1) * (sqrtBits n k r + 1) := by
  induction k generalizing r with
  | zero => simpa [sqrtBits] using ⟨h1, h2⟩
  | succ k ih =>
    unfold sqrtBits
    split
    · rename_i h
      apply ih _ h
      have : r + 2 ^ k + 2 ^ k = r + 2 ^ (k + 1) := by rw [pow_succ]; ring
      rwa [this]
    · rename_i h
      exact ih _ h1 (by omega)

theorem isqrt_spec {n : Nat} (h : n < 2 ^ 428) : isqrt n * isqrt n ≤ n ∧ n < (isqrt n + 1) * (isqrt n + 1) := by
  apply sqrtBits_spec
  · omega
  · have : (0 + 2 ^ 214) * (0 + 2 ^ 214) = 2 ^ 428 := by rw [Nat.zero_add, ← pow_add]
    rw [this]; exact h

end Sys2Proof.Float
end

