-- ==== Sys2Proof/Laws/Arithmetic.lean ====
section
/-! SUPPORT. What the five rounding primitives can answer (00_scope.md R14, R15): the canonical NaN or no NaN, the finite
cases in closed form, and their monotonicity; and what the commands do to STATUS. -/

namespace Sys2Proof.Float

open Sys2Proof.Safety

/-! ## No NaN but the canonical one -/

theorem canonical_canonNaN : canonical Config.canonNaN = true := by simp [canonical]

theorem canonical_of_not_nan {a : F32} (h : isNaN a = false) : canonical a = true := by simp [canonical, h]

theorem canonical_pack {b : Bool} {m : Nat} (h : m ≤ 0x7F800000) : canonical (pack b m) = true :=
  canonical_of_not_nan (isNaN_pack h)

theorem canonical_iff (a : F32) : canonical a = true ↔ (isNaN a = true → a = Config.canonNaN) := by
  unfold canonical; cases isNaN a <;> simp

theorem canonical_addFinite (a b : F32) : canonical (addFinite a b) = true := by
  unfold addFinite
  split
  · exact canonical_pack (by omega)
  · exact canonical_pack (roundMag_le _ _)

theorem canonical_fadd (a b : F32) : canonical (fadd a b) = true := by
  unfold fadd
  split
  · exact canonical_canonNaN
  · rename_i h
    simp only [Bool.or_eq_true, not_or, Bool.not_eq_true] at h
    split
    · split
      · exact canonical_canonNaN
      · exact canonical_of_not_nan h.1
    · split
      · exact canonical_of_not_nan h.2
      · exact canonical_addFinite a b

theorem canonical_fsub (a b : F32) : canonical (fsub a b) = true := canonical_fadd a (fneg b)

theorem canonical_fmul (a b : F32) : canonical (fmul a b) = true := by
  unfold fmul
  repeat' split
  all_goals first
    | exact canonical_canonNaN
    | exact canonical_pack (by omega)
    | exact canonical_pack (roundMag_le _ _)

theorem canonical_fdiv (a b : F32) : canonical (fdiv a b) = true := by
  unfold fdiv
  repeat' split
  all_goals first
    | exact canonical_canonNaN
    | exact canonical_pack (by omega)
    | exact canonical_pack (roundMag_le _ _)

theorem canonical_fsqrt (a : F32) : canonical (fsqrt a) = true := by
  unfold fsqrt
  repeat' split
  all_goals first
    | exact canonical_canonNaN
    | exact canonical_pack (roundMag_le _ _)
    | (apply canonical_of_not_nan; simp_all)

/-! ## The finite cases -/

theorem fadd_finite {a b : F32} (ha : isFinite a = true) (hb : isFinite b = true) : fadd a b = addFinite a b := by
  simp [fadd, not_nan_of_finite ha, not_nan_of_finite hb, not_inf_of_finite ha, not_inf_of_finite hb]

theorem fmul_finite {a b : F32} (ha : isFinite a = true) (hb : isFinite b = true) :
    fmul a b = pack (sign a ^^ sign b) (roundMag (mag a * mag b) (2 ^ 149)) := by
  simp [fmul, not_nan_of_finite ha, not_nan_of_finite hb, not_inf_of_finite ha, not_inf_of_finite hb]

theorem fdiv_finite {a b : F32} (ha : isFinite a = true) (hb : isFinite b = true) (hz : isZero b = false) :
    fdiv a b = pack (sign a ^^ sign b) (roundMag (mag a * 2 ^ 149) (mag b)) := by
  simp [fdiv, not_nan_of_finite ha, not_nan_of_finite hb, not_inf_of_finite ha, not_inf_of_finite hb, hz]

theorem roundMag_zero {d : Nat} (hd : 0 < d) : roundMag 0 d = 0 := by
  have h0 : lowMag 0 = 0 := by decide
  have h := roundMag_lowMag (p := 0) (by omega) hd
  rwa [h0, Nat.zero_mul] at h

/-- A zero times a finite value is a zero. -/
theorem fmul_zero_left {a b : F32} (ha : isZero a = true) (hb : isFinite b = true) :
    fmul a b = pack (sign a ^^ sign b) 0 := by
  rw [fmul_finite (finite_of_zero ha) hb, (mag_eq_zero_iff a).2 ha, Nat.zero_mul, roundMag_zero (by positivity)]

theorem fmul_comm (a b : F32) : fmul a b = fmul b a := by
  unfold fmul
  rw [Bool.or_comm (isNaN a), Bool.or_comm (isInf a), Bool.or_comm (isZero a), Bool.xor_comm (sign a),
    Nat.mul_comm (mag a)]

theorem fmul_zero_right {a b : F32} (ha : isFinite a = true) (hb : isZero b = true) :
    fmul a b = pack (sign a ^^ sign b) 0 := by rw [fmul_comm, fmul_zero_left hb ha, Bool.xor_comm]

theorem orderKey_pack (b : Bool) {m : Nat} (h : m < 2 ^ 31) : orderKey (pack b m) = if b then -(m : Int) else m := by
  have e : (pack b m).toNat % 2 ^ 31 = m := by rw [pack_toNat b h]; split <;> omega
  unfold orderKey; rw [pack_sign b h, e]

/-! ## Monotonicity -/

/-- The order key of an integer count of units, rounded. -/
def roundKey (v : Int) : Int := if v < 0 then -(roundMag v.natAbs 1 : Int) else roundMag v.natAbs 1

theorem roundKey_mono {v w : Int} (h : v ≤ w) : roundKey v ≤ roundKey w := by
  unfold roundKey
  split <;> split
  · have := @roundMag_mono w.natAbs 1 v.natAbs 1 (by omega) (by omega) (by omega); omega
  · omega
  · omega
  · have := @roundMag_mono v.natAbs 1 w.natAbs 1 (by omega) (by omega) (by omega); omega

theorem orderKey_fadd {a b : F32} (ha : isFinite a = true) (hb : isFinite b = true) :
    orderKey (fadd a b) = roundKey (val a + val b) := by
  rw [fadd_finite ha hb]
  unfold addFinite roundKey
  have hm := roundMag_le (val a + val b).natAbs 1
  split
  · rename_i h
    have h0 : roundMag 0 1 = 0 := roundMag_zero (by omega)
    rw [orderKey_pack _ (by omega), h]
    simp [h0]
  · rw [orderKey_pack _ (by omega)]; simp only [decide_eq_true_eq]

theorem orderKey_val {a : F32} (ha : isFinite a = true) : orderKey a = roundKey (val a) := by
  have h : (val a).natAbs = mag a := natAbs_val a
  have hm : roundMag (mag a) 1 = a.toNat % 2 ^ 31 := by
    rw [mag_eq_lowMag]
    have := roundMag_lowMag (p := a.toNat % 2 ^ 31) (by rw [isFinite_iff] at ha; omega) (d := 1) (by omega)
    rwa [Nat.mul_one] at this
  unfold roundKey orderKey
  rw [h, hm]
  cases hs : sign a
  · have : ¬ val a < 0 := by rw [val_neg_iff, hs]; simp
    simp [this]
  · by_cases hz : isZero a = true
    · have h0 : a.toNat % 2 ^ 31 = 0 := (isZero_iff a).1 hz
      rw [h0]; split <;> simp
    · have : val a < 0 := by rw [val_neg_iff, hs]; simpa using hz
      simp [this]

/-- `fadd` of finite operands is monotone in both. -/
theorem orderKey_fadd_mono {a b a' b' : F32} (ha : isFinite a = true) (hb : isFinite b = true)
    (ha' : isFinite a' = true) (hb' : isFinite b' = true) (h1 : orderKey a ≤ orderKey a')
    (h2 : orderKey b ≤ orderKey b') : orderKey (fadd a b) ≤ orderKey (fadd a' b') := by
  rw [orderKey_fadd ha hb, orderKey_fadd ha' hb']
  rw [orderKey_le_iff] at h1 h2
  exact roundKey_mono (by omega)

end Sys2Proof.Float

namespace Sys2Proof.Machine

open Sys2Proof.Float Sys2Proof.Safety

/-- A value is not finite exactly when it is a NaN or an infinity. -/
theorem not_finite_iff (a : F32) : isFinite a = false ↔ (isNaN a = true ∨ isInf a = true) := by
  rcases class_cases a with ⟨h1, h2, h3⟩ | ⟨h1, h2, h3⟩ | ⟨h1, h2, h3⟩ <;> simp [h1, h2, h3]

/-- The sticky bits a command leaves. -/
theorem after_errors (i : Instr) (s : State) :
    (after i s).errOp = (s.errOp || i.reservedOp) ∧ (after i s).errIdx = (s.errIdx || i.badIndex) := by
  cases i with
  | setp idx d =>
    simp only [after, Instr.reservedOp, Instr.badIndex]
    rcases paramOfIdx_cases idx with ⟨p, hp, -, h⟩ | ⟨hp, h⟩ <;> rw [hp] <;> simp
    · cases s.errIdx <;> simp; omega
    · cases s.errIdx <;> simp; omega
  | peek idx =>
    simp only [after, Instr.reservedOp, Instr.badIndex]
    rcases regOfIdx_cases idx with ⟨p, hp, -, h⟩ | ⟨hp, h⟩ <;> rw [hp] <;> simp
    · cases s.errIdx <;> simp; omega
    · cases s.errIdx <;> simp; omega
  | _ => simp [after, construct, processRegs, Instr.reservedOp, Instr.badIndex]

/-- CFG_NONFINITE changes only by a construction. -/
theorem after_cfgNonfinite {i : Instr} (h1 : i ≠ .construct) (h2 : i ≠ .defaults) (s : State) :
    (after i s).cfgNonfinite = s.cfgNonfinite := by
  cases i with
  | setp idx d => simp only [after]; cases paramOfIdx idx <;> simp
  | peek idx => simp only [after]; cases regOfIdx idx <;> simp
  | construct => exact absurd rfl h1
  | defaults => exact absurd rfl h2
  | _ => simp [after, processRegs]

end Sys2Proof.Machine
end

