-- ==== Sys2Proof/Laws/Decode.lean ====
section
/-! SUPPORT. The fields of a command word as numbers, and the fields of a word put together from three. -/

namespace Sys2Proof

theorem opField_toNat (w : CmdWord) : (opField w).toNat = w.toNat / 2 ^ 37 := by
  have := w.isLt
  simp [opField, BitVec.extractLsb'_toNat, Nat.shiftRight_eq_div_pow]; omega

theorem idxField_toNat (w : CmdWord) : (idxField w).toNat = w.toNat / 2 ^ 32 % 2 ^ 5 := by
  simp [idxField, BitVec.extractLsb'_toNat, Nat.shiftRight_eq_div_pow]

theorem dataField_toNat (w : CmdWord) : (dataField w).toNat = w.toNat % 2 ^ 32 := by
  simp [dataField, BitVec.extractLsb'_toNat]

/-- The three fields of a word lie beside one another. -/
theorem cmdWord_toNat (op : Opcode) (idx : RegIdx) (data : F32) :
    (cmdWord op idx data).toNat = op.toNat * 2 ^ 37 + idx.toNat * 2 ^ 32 + data.toNat := by
  have ho := op.isLt; have hi := idx.isLt; have hd := data.isLt
  have e1 : (op.setWidth 40 <<< 37).toNat = 2 ^ 37 * op.toNat := by
    simp [BitVec.toNat_shiftLeft, Nat.shiftLeft_eq]; omega
  have e2 : (idx.setWidth 40 <<< 32).toNat = 2 ^ 32 * idx.toNat := by
    simp [BitVec.toNat_shiftLeft, Nat.shiftLeft_eq]; omega
  have e3 : (data.setWidth 40).toNat = data.toNat := by simp; omega
  unfold cmdWord
  rw [BitVec.toNat_or, BitVec.toNat_or, e1, e2, e3, ← Nat.two_pow_add_eq_or_of_lt (by omega)]
  have : 2 ^ 37 * op.toNat + 2 ^ 32 * idx.toNat = 2 ^ 32 * (2 ^ 5 * op.toNat + idx.toNat) := by ring
  rw [this, ← Nat.two_pow_add_eq_or_of_lt (by omega)]; ring

theorem opField_cmdWord (op : Opcode) (idx : RegIdx) (data : F32) : opField (cmdWord op idx data) = op := by
  have := op.isLt; have := idx.isLt; have := data.isLt
  apply BitVec.eq_of_toNat_eq; rw [opField_toNat, cmdWord_toNat]; omega

theorem idxField_cmdWord (op : Opcode) (idx : RegIdx) (data : F32) : idxField (cmdWord op idx data) = idx := by
  have := op.isLt; have := idx.isLt; have := data.isLt
  apply BitVec.eq_of_toNat_eq; rw [idxField_toNat, cmdWord_toNat]; omega

theorem dataField_cmdWord (op : Opcode) (idx : RegIdx) (data : F32) : dataField (cmdWord op idx data) = data := by
  have := op.isLt; have := idx.isLt; have := data.isLt
  apply BitVec.eq_of_toNat_eq; rw [dataField_toNat, cmdWord_toNat]; omega

/-- A word is its three fields. -/
theorem cmdWord_eta (w : CmdWord) : cmdWord (opField w) (idxField w) (dataField w) = w := by
  have := w.isLt
  apply BitVec.eq_of_toNat_eq; rw [cmdWord_toNat, opField_toNat, idxField_toNat, dataField_toNat]; omega

theorem opcode_cases (o : Opcode) :
    o = 0#3 ∨ o = 1#3 ∨ o = 2#3 ∨ o = 3#3 ∨ o = 4#3 ∨ o = 5#3 ∨ o = 6#3 ∨ o = 7#3 := by
  revert o; decide

end Sys2Proof
end

