-- ==== Sys2Proof/Laws/PerInstr.lean ====
section
/-! SUPPORT. What holds of every command's word, one lemma per command (30_encoding.md R96, R102). -/

namespace Sys2Proof.Laws.EncodesRow

/-- The word of a command carries the command's opcode in bits 39:37. -/
def Statement (i : Instr) : Prop := opField (encode i) = i.opcode

theorem nop : Statement .nop := opField_cmdWord _ _ _

theorem setp (idx : RegIdx) (data : F32) : Statement (.setp idx data) := opField_cmdWord _ _ _

theorem construct : Statement .construct := opField_cmdWord _ _ _

theorem defaults : Statement .defaults := opField_cmdWord _ _ _

theorem process (x : F32) : Statement (.process x) := opField_cmdWord _ _ _

theorem peek (idx : RegIdx) : Statement (.peek idx) := opField_cmdWord _ _ _

theorem reserved110 : Statement .reserved110 := opField_cmdWord _ _ _

theorem reserved111 : Statement .reserved111 := opField_cmdWord _ _ _

end Sys2Proof.Laws.EncodesRow
end

