-- ==== Sys2Proof/Laws/Step.lean ====
section
/-! SUPPORT. What a clock edge can do, said once. -/

namespace Sys2Proof.Machine

/-- A step that answers a next state is a reset, an edge without a command, or an edge that runs the command it
accepted. -/
theorem step_cases {s t : State} (h : step s = .next t) :
    ((nextEdge s).rst = true ∧ t = resetBlock (tick s)) ∨
    ((nextEdge s).rst = false ∧ s.initialised = true ∧ ((nextEdge s).cmdValid && cmdReady false s) = false ∧
      t = tick (takeResponse (nextEdge s) s)) ∨
    ((nextEdge s).rst = false ∧ s.initialised = true ∧ (nextEdge s).cmdValid = true ∧ cmdReady false s = true ∧
      t = after (decode (nextEdge s).cmdWord) (beginCommand (tick (takeResponse (nextEdge s) s)))) := by
  unfold step clockEdge at h
  cases hr : (nextEdge s).rst with
  | true => simp only [hr, if_true] at h; cases h; exact .inl ⟨rfl, rfl⟩
  | false =>
    cases hi : s.initialised with
    | false => simp [hr, hi] at h
    | true =>
      cases hc : ((nextEdge s).cmdValid && cmdReady false s) with
      | false => simp [hr, hi, hc] at h; exact .inr (.inl ⟨rfl, rfl, rfl, h.symm⟩)
      | true =>
        simp [hr, hi, hc] at h
        rw [exec_next_iff] at h
        simp only [Bool.and_eq_true] at hc
        exact .inr (.inr ⟨rfl, rfl, hc.1, hc.2, h⟩)

/-- A step of a block that has been reset, at an edge without `rst` that accepts no command. -/
theorem step_quiet {s : State} (hi : s.initialised = true) (hr : (nextEdge s).rst = false)
    (hc : ((nextEdge s).cmdValid && cmdReady false s) = false) : step s = .next (tick (takeResponse (nextEdge s) s)) := by
  simp [step, clockEdge, hi, hr, hc]

/-- A step at an edge that accepts a command. -/
theorem step_accept {s : State} (hi : s.initialised = true) (hr : (nextEdge s).rst = false)
    (hv : (nextEdge s).cmdValid = true) (hc : cmdReady false s = true) :
    step s = exec (decode (nextEdge s).cmdWord) (beginCommand (tick (takeResponse (nextEdge s) s))) := by
  simp [step, clockEdge, hi, hr, hv, hc]

/-- A step at an edge with `rst`. -/
theorem step_reset {s : State} (hr : (nextEdge s).rst = true) : step s = .next (resetBlock (tick s)) := by
  simp [step, clockEdge, hr]

/-- A step of a block that has been reset, while the host is idle. -/
theorem step_idle {s : State} (hi : s.initialised = true) (hin : s.inputs = []) : step s = .next (tick s) := by
  have he : nextEdge s = idleEdge := by simp [nextEdge, hin]
  rw [step_quiet hi (by rw [he]; rfl) (by rw [he]; rfl), he]
  simp [takeResponse, idleEdge]

end Sys2Proof.Machine
end

