-- ==== Sys2Proof/Machine/AsmText.lean ====
section
/-! DEFINITION. The assembly text of 30_encoding.md: one line read into its commands (R104, R105) and a listing line
written (R106). Text is a list of characters. -/

namespace Sys2Proof.Machine

/-- Mnemonics and register names are case-insensitive (R104); a line is read in capitals. -/
def upperChar (c : Char) : Char := if 97 ≤ c.toNat ∧ c.toNat ≤ 122 then Char.ofNat (c.toNat - 32) else c

def isBlank (c : Char) : Bool := c == ' ' || c == '\t'

/-- Blanks at either end removed. -/
def trimBlanks (l : List Char) : List Char := ((l.dropWhile isBlank).reverse.dropWhile isBlank).reverse

/-- The part before a mark, and the part after it where the mark stands. -/
def cutAt (mark : Char) : List Char → List Char × Option (List Char)
  | [] => ([], none)
  | c :: rest =>
    if c == mark then ([], some rest)
    else let (before, later) := cutAt mark rest; (c :: before, later)

/-- The operands between commas. -/
def splitOperands : List Char → List (List Char)
  | [] => [[]]
  | c :: rest =>
    match c == ',', splitOperands rest with
    | true, ops => [] :: ops
    | false, op :: ops => (c :: op) :: ops
    | false, [] => [[c]]

/-- One digit, decimal or hexadecimal in capitals. -/
def digitOf (c : Char) : Option Nat :=
  if 48 ≤ c.toNat ∧ c.toNat ≤ 57 then some (c.toNat - 48)
  else if 65 ≤ c.toNat ∧ c.toNat ≤ 70 then some (c.toNat - 55)
  else none

/-- Digits of a base read after a number so far. -/
def readDigits (base : Nat) : List Char → Nat → Option Nat
  | [], n => some n
  | c :: rest, n =>
    match digitOf c with
    | some d => if d < base then readDigits base rest (n * base + d) else none
    | none => none

/-- A number of at least one digit. -/
def readNumber (base : Nat) (l : List Char) : Option Nat := if l.isEmpty then none else readDigits base l 0

/-- A sign and what follows it. -/
def readSign : List Char → Bool × List Char
  | '-' :: rest => (true, rest)
  | l => (false, l)

/-- A decimal exponent. -/
def readExponent : Option (List Char) → Option Int
  | none => some 0
  | some l =>
    let (neg, digits) := readSign l
    (readNumber 10 digits).map fun n => if neg then -(n : Int) else n

/-- A decimal literal without its sign. -/
def readDecimal (neg : Bool) (l : List Char) : Option AsmValue :=
  let (mantissa, exponent) := cutAt 'E' l
  let (whole, fraction) := cutAt '.' mantissa
  let fraction := fraction.getD []
  match readNumber 10 (whole ++ fraction), readExponent exponent with
  | some digits, some e => some (.decimal neg digits (e - fraction.length))
  | _, _ => none

/-- A `<value>` (R104). -/
def readValue (l : List Char) : Option AsmValue :=
  match l with
  | '0' :: 'X' :: digits =>
    if digits.length = 8 then (readNumber 16 digits).map fun n => .bits (BitVec.ofNat 32 n) else none
  | ['N', 'A', 'N'] => some .nan
  | _ =>
    let (neg, rest) := readSign l
    if rest = ['I', 'N', 'F'] then some (.infinity neg) else readDecimal neg rest

/-- The parameter registers by name (R97). -/
def paramNames : List (List Char × ParamReg) :=
  [(['P', '_', 'T', 'A', 'U', '_', 'A'], .tauA), (['P', '_', 'T', 'A', 'U', '_', 'R'], .tauR),
    (['P', '_', 'M', 'I', 'N', '_', 'F'], .minF), (['P', '_', 'M', 'A', 'X', '_', 'F'], .maxF),
    (['P', '_', 'Q'], .q), (['P', '_', 'M', 'I', 'X'], .mix)]

/-- The registers by name (R97). -/
def regNames : List (List Char × Reg) :=
  paramNames.map (fun e => (e.1, Reg.param e.2)) ++
  [(['A', 'L', 'P', 'H', 'A', '_', 'A'], .alphaA), (['B', 'E', 'T', 'A', '_', 'A'], .betaA),
    (['A', 'L', 'P', 'H', 'A', '_', 'R'], .alphaR), (['B', 'E', 'T', 'A', '_', 'R'], .betaR),
    (['G', 'A', 'I', 'N', '_', 'L', 'P'], .gainLp), (['M', 'I', 'N', '_', 'F', 'R', 'E', 'Q'], .minFreq),
    (['F', 'R', 'E', 'Q', '_', 'B', 'W'], .freqBw), (['Q', 'C'], .qc),
    (['A', 'L', 'P', 'H', 'A', '_', 'M', 'I', 'X'], .alphaMix), (['B', 'E', 'T', 'A', '_', 'M', 'I', 'X'], .betaMix)] ++
  [(['F', 'S'], .fs), (['R', 'E', 'L'], .rel), (['A', 'T', 'T'], .att), (['D', 'L', 'Y'], .dly), (['C', 'F'], .cf),
    (['H', 'P'], .hp), (['B', 'P'], .bp), (['L', 'P'], .lp), (['S', 'T', 'A', 'T', 'U', 'S'], .status)]

/-- A numeric register index, 0 to 31 (R104). -/
def readIndex (l : List Char) : Option RegIdx :=
  match readNumber 10 l with
  | some n => if n < 32 then some (BitVec.ofNat 5 n) else none
  | none => none

/-- A `<preg>` of SETP and a `<value>` (R104). -/
def readSetp (preg value : List Char) : Option AsmLine :=
  match readValue value, paramNames.lookup preg, readIndex preg with
  | some v, some r, _ => some (.setp r v)
  | some v, none, some i => some (.setpNum i v)
  | _, _, _ => none

/-- A `<reg>` of PEEK (R104). -/
def readPeek (reg : List Char) : Option AsmLine :=
  match regNames.lookup reg, readIndex reg with
  | some r, _ => some (.peek r)
  | none, some i => some (.peekNum i)
  | none, none => none

/-- A list of values, all of them legal. -/
def readValues : List (List Char) → Option (List F32)
  | [] => some []
  | l :: rest =>
    match readValue l, readValues rest with
    | some v, some vs => some (assembleValue v :: vs)
    | _, _ => none

/-- CONFIG (R105). -/
def readConfig (ops : List (List Char)) : Option (List Instr) :=
  match readValues ops with
  | some [ta, tr, fmin, fmax, q, mix] => some (configCommands ta tr fmin fmax q mix)
  | _ => none

/-- The commands of a mnemonic and its operands (R104, R105). -/
def assembleOps (mnemonic : List Char) (ops : List (List Char)) : Option (List Instr) :=
  let one (l : Option AsmLine) : Option (List Instr) := l.map fun l => [assemble l]
  match mnemonic, ops with
  | ['N', 'O', 'P'], [] => one (some .nop)
  | ['S', 'E', 'T', 'P'], [preg, value] => one (readSetp preg value)
  | ['C', 'O', 'N', 'S', 'T', 'R', 'U', 'C', 'T'], [] => one (some .construct)
  | ['D', 'E', 'F', 'A', 'U', 'L', 'T', 'S'], [] => one (some .defaults)
  | ['P', 'R', 'O', 'C', 'E', 'S', 'S'], [value] => one ((readValue value).map .process)
  | ['P', 'E', 'E', 'K'], [reg] => one (readPeek reg)
  | ['C', 'O', 'N', 'F', 'I', 'G'], ops => readConfig ops
  | ['P', 'E', 'E', 'K', 'S', 'T', 'A', 'T', 'E'], [] => some peekStateCommands
  | ['P', 'E', 'E', 'K', 'A', 'L', 'L'], [] => some peekAllCommands
  | _, _ => none

/-- One line of assembly (R104): its commands, none of them for a line that holds a comment only; no answer for text that
is no line of R104 or R105. -/
def assembleText (text : List Char) : Option (List Instr) :=
  match trimBlanks ((cutAt ';' text).1.map upperChar) with
  | [] => some []
  | line =>
    let mnemonic := line.takeWhile fun c => !isBlank c
    let rest := trimBlanks (line.dropWhile fun c => !isBlank c)
    assembleOps mnemonic (if rest.isEmpty then [] else (splitOperands rest).map trimBlanks)

/-- `digits` hexadecimal digits of a number, in capitals. -/
def hexDigits : Nat → Nat → List Char
  | 0, _ => []
  | k + 1, n => hexDigits k (n / 16) ++ [Char.ofNat (if n % 16 < 10 then 48 + n % 16 else 55 + n % 16)]

/-- A line of a listing (R106): the command's 40-bit word in 10 hexadecimal digits, then its assembly text. -/
def listingLine (i : Instr) (text : List Char) : List Char := hexDigits 10 (encode i).toNat ++ ' ' :: ' ' :: text

end Sys2Proof.Machine
end

