-- ==== Sys2Proof/Tests/Slice0.lean ====
section
/-! SUPPORT. Tests of the model: ill-formed commands, words written from the spec's encoding, one step per test with the
values of spec/95_test_vectors.md, and for every statement of Certificates/Slice0/Obligations.lean that has hypotheses a
state and operands that meet them. -/

namespace Sys2Proof.Tests

set_option Elab.async false

open Sys2Proof.Machine Sys2Proof.Float Sys2Proof.Safety

/-! ## Helpers -/

/-- The state a command leaves. -/
def ran (i : Instr) (s : State) : Option State :=
  match exec i s with
  | .next t => some t
  | _ => none

/-- The state a clock edge leaves. -/
def stepped (s : State) : Option State :=
  match step s with
  | .next t => some t
  | _ => none

/-- The data of the responses a state holds. -/
def data (s : State) : List F32 := s.rspq.map Response.data

/-- The datapath registers in index order, 17 to 23. -/
def datapath (s : State) : List F32 := [s.rel, s.att, s.dly, s.cf, s.hp, s.bp, s.lp]

/-- The coefficient registers in index order, 6 to 15. -/
def coefficients (s : State) : List F32 :=
  [s.alphaA, s.betaA, s.alphaR, s.betaR, s.gainLp, s.minFreq, s.freqBw, s.qc, s.alphaMix, s.betaMix]

/-- The state V20 gives after its first sample, its response still in RSPQ. -/
def afterOne : State :=
  { State.reset with
    rel := 0x3F800000#32, att := 0x3A149000#32, dly := 0x3F800000#32, cf := 0x3ADA63D6#32
    hp := 0x3A09E470#32, bp := 0x35EB4494#32, lp := 0x31C8B420#32
    rspq := [⟨.sample, 0x35EB4494#32, 0⟩] }

/-- A block just reset whose host drives one edge. -/
def driven (e : PortEdge) (s : State) : State := { s with inputs := [e] }

/-- A decidable claim about the members of a list, checked member by member. -/
theorem each {l : List F32} {p : F32 → Prop} [DecidablePred p] (h : (l.all fun a => decide (p a)) = true) :
    ∀ a ∈ l, p a := by simpa using h

/-! ## Ill-formed commands (R97, R100, R101) -/

theorem test_setp_index_6_ill_formed : Instr.wellFormed (.setp 6#5 0#32) = false := by decide

theorem test_setp_index_5_well_formed : Instr.wellFormed (.setp 5#5 0#32) = true := by decide

theorem test_peek_index_25_ill_formed : Instr.wellFormed (.peek 25#5) = false := by decide

theorem test_peek_index_24_well_formed : Instr.wellFormed (.peek 24#5) = true := by decide

theorem test_reserved_ill_formed :
    Instr.wellFormed .reserved110 = false ∧ Instr.wellFormed .reserved111 = false := by decide

/-! ## Words written from R91 and R96, and those of P2 and P3 -/

theorem test_decode_nop : decode 0b0001010110000000000000000000000000000001#40 = .nop := by decide

/-- OP 001, IDX 00010, DATA 20.0 (P2 line 3). -/
theorem test_decode_setp : decode 0b0010001001000001101000000000000000000000#40 = .setp 2#5 0x41A00000#32 := by decide

theorem test_decode_construct : decode 0b0100000000000000000000000000000000000000#40 = .construct := by decide

theorem test_decode_defaults : decode 0b0110000000000000000000000000000000000000#40 = .defaults := by decide

/-- OP 100, DATA −1.0. -/
theorem test_decode_process : decode 0b1000000010111111100000000000000000000000#40 = .process 0xBF800000#32 := by decide

/-- OP 101, IDX 10110: PEEK BP (P2 last line). -/
theorem test_decode_peek : decode 0b1011011000000000000000000000000000000000#40 = .peek 22#5 := by decide

theorem test_decode_reserved : decode 0xC000000000#40 = .reserved110 ∧ decode 0xE000000000#40 = .reserved111 := by decide

/-- P2's expansion of CONFIG, word for word (R105). -/
theorem test_config_words :
    (configCommands 0x3D23D70A#32 0x3B03126F#32 0x41A00000#32 0x453B8000#32 0x3E4CCCCD#32 0#32).map encode =
      [0x203D23D70A#40, 0x213B03126F#40, 0x2241A00000#40, 0x23453B8000#40, 0x243E4CCCCD#40, 0x2500000000#40,
        0x4000000000#40] := by decide

/-- Lines of P2, P3 and R104, and the pseudo-instruction of P2, assembled from their text. -/
theorem test_assemble_text :
    [['s', 'e', 't', 'p', ' ', 'P', '_', 'T', 'A', 'U', '_', 'R', ',', ' ', '0', '.', '0', '0', '2', ';', ' ', 'x'],
      ['S', 'E', 'T', 'P', ' ', '9', ',', ' ', '0', '.', '5'], ['P', 'E', 'E', 'K', ' ', 'b', 'p'],
      ['P', 'R', 'O', 'C', 'E', 'S', 'S', ' ', '-', '2', 'e', '-', '3'],
      ['P', 'R', 'O', 'C', 'E', 'S', 'S', ' ', '0', 'x', '8', '0', '0', '0', '0', '0', '0', '0']].map assembleText =
    [some [.setp 1#5 0x3B03126F#32], some [.setp 9#5 0x3F000000#32], some [.peek 22#5], some [.process 0xBB03126F#32],
      some [.process 0x80000000#32]] := by decide +kernel

/-- R106: the rule's example. -/
theorem test_listing_line :
    listingLine (.process 0x3F800000#32) ['P', 'R', 'O', 'C', 'E', 'S', 'S', ' ', '1', '.', '0'] =
      ['8', '0', '3', 'F', '8', '0', '0', '0', '0', '0', ' ', ' ', 'P', 'R', 'O', 'C', 'E', 'S', 'S', ' ', '1', '.',
        '0'] := by decide +kernel

/-- A table word is read with bit 0 its least significant bit, and the words run as the first step after reset. -/
theorem test_fetch_word : (stepped (State.reset.withFetchWord 40 0x803F800000)).map data = some [0x35EB4494#32] := by
  decide +kernel

/-! ## One step each -/

/-- V15: a NOP with its unused fields all ones. -/
theorem test_nop : ran (decode 0x1FFFFFFFFF#40) afterOne = some afterOne := by decide +kernel

/-- V14: SETP P_Q, −0.2 writes P_Q only. -/
theorem test_setp : ran (decode 0x24BE4CCCCD#40) State.reset = some { State.reset with pQ := 0xBE4CCCCD#32 } := by
  decide +kernel

/-- V14: SETP 6 sets ERR_IDX and writes nothing. -/
theorem test_setp_bad_index : ran (decode 0x263F000000#40) State.reset = some { State.reset with errIdx := true } := by
  decide +kernel

/-- V4: τ_attack = −0.04. -/
theorem test_construct_negative_tau :
    (ran .construct { State.reset with pTauA := 0xBD23D70A#32 }).map (fun t => (coefficients t, t.cfgNonfinite)) =
      some ([0x3F801295#32, 0xBA14A800#32, 0x3F7D1D28#32, 0x3C38B600#32, 0x3EA1E89B#32, 0x3ABABEF7#32, 0x3EDA1D0B#32,
        0x3E4CCCCD#32, 0x3F800000#32, 0#32], false) := by decide +kernel

/-- V8 and V12 at once: a negative q and a sweep that runs downward; the datapath of V20 is gone. -/
theorem test_construct_nonfinite :
    (ran .construct { afterOne with pQ := 0xBE4CCCCD#32, pMinF := 0x453B8000#32, pMaxF := 0x41A00000#32 }).map
      (fun t => (coefficients t, t.cfgNonfinite, datapath t)) =
      some ([0x3F7FDADC#32, 0x3A149000#32, 0x3F7D1D28#32, 0x3C38B600#32, 0x7FC00000#32, 0x3E5AD7CA#32, 0xBE57ECCE#32,
        0xBE4CCCCD#32, 0x3F800000#32, 0#32], true, List.replicate 7 0#32) := by
  decide +kernel

/-- V16: DEFAULTS keeps the sticky bits and recomputes CFG_NONFINITE. -/
theorem test_defaults :
    ran .defaults { afterOne with
      pQ := 0xBE4CCCCD#32, gainLp := 0x7FC00000#32, qc := 0xBE4CCCCD#32, errOp := true, errIdx := true
      cfgNonfinite := true } =
      some { State.reset with errOp := true, errIdx := true, rspq := afterOne.rspq } := by decide +kernel

/-- V20, the second sample. -/
theorem test_process : (ran (.process 0xBF800000#32) afterOne).map (fun t => (datapath t, data t)) =
    some ([0x3F800000#32, 0x3A948539#32, 0xBB798A00#32, 0x3AFA041D#32, 0x3A1D20FB#32, 0x36878B80#32, 0x32B68D6B#32],
      [0x35EB4494#32, 0x36878B80#32]) := by decide +kernel

/-- V21: the least |x| whose first center frequency is not MIN_FREQ, negated. -/
theorem test_process_first_cf : (ran (.process 0xB481709F#32) State.reset).map (fun t => t.cf) = some 0x3ABABEF8#32 := by
  decide +kernel

/-- V16: the STATUS word with all three bits set, read by PEEK 24. -/
theorem test_peek_status :
    (ran (.peek 24#5) { State.reset with errOp := true, errIdx := true, cfgNonfinite := true }).map data =
      some [0x00000007#32] := by decide +kernel

/-- V15: PEEK 25 responds 0 and sets ERR_IDX. -/
theorem test_peek_reserved_index : ran (decode 0xB900000000#40) State.reset =
    some { State.reset with errIdx := true, rspq := [⟨.peek, 0#32, 0⟩] } := by decide +kernel

/-- V15: OP 110 and OP 111 set ERR_OP. -/
theorem test_reserved110 : ran (decode 0xC000000000#40) afterOne = some { afterOne with errOp := true } := by
  decide +kernel

theorem test_reserved111 : ran (decode 0xFFFFFFFFFF#40) afterOne = some { afterOne with errOp := true } := by
  decide +kernel

/-- V17, the rows of c = 3.0 and of c = 0x403B1AAF: ApproxTan, b0, a1, and f = 2 × ApproxSin. -/
theorem test_approximations :
    [0x40400000#32, 0x403B1AAF#32].map (fun c => (approxTan c, lowpassB0 c, lowpassA1 c, svfF c)) =
      [(0x41400000#32, 0x3F6C4EC5#32, 0x3F589D8A#32, 0xC0400000#32),
        (0x41340A01#32, 0x3F6B1B30#32, 0x3F563660#32, 0xC01ED7F6#32)] := by decide +kernel

/-- R95: KIND is bit 32 of a response word. -/
theorem test_response_word :
    Response.word ⟨.sample, 0x35EB4494#32, 0⟩ = 0x035EB4494#33 ∧
    Response.word ⟨.peek, 0x3A149000#32, 0⟩ = 0x13A149000#33 := by decide

/-- R202: a run is over when RSPQ is empty, whatever the host drives next and however long the block stays busy. -/
theorem test_run_over :
    RunOver (driven ⟨false, true, 0#40, false⟩ { State.reset with busy := 1 }) ∧ ¬ RunOver afterOne := by
  unfold RunOver; decide

/-! ## Hypotheses met: words -/

theorem witness_UnusedFieldsAreIgnored :
    (opField 0x0000000000#40 = opField 0x1FFFFFFFFF#40 ∧ opField 0x0000000000#40 = 0b000#3) ∧
    (opField 0x80BF800000#40 = opField 0x9FBF800000#40 ∧ opField 0x80BF800000#40 = 0b100#3 ∧
      dataField 0x80BF800000#40 = dataField 0x9FBF800000#40 ∧ idxField 0x80BF800000#40 ≠ idxField 0x9FBF800000#40) ∧
    (opField 0xBF00000000#40 = opField 0xBFFFFFFFFF#40 ∧ opField 0xBF00000000#40 = 0b101#3 ∧
      idxField 0xBF00000000#40 = idxField 0xBFFFFFFFFF#40) ∧
    opField 0x2600000000#40 = 0b001#3 := by decide

theorem witness_words :
    opField 0x1FFFFFFFFF#40 = 0b000#3 ∧ opField 0x3F3F800000#40 = 0b001#3 ∧ opField 0x5FFFFFFFFF#40 = 0b010#3 ∧
    opField 0x7FFFFFFFFF#40 = 0b011#3 ∧ opField 0x9FBF800000#40 = 0b100#3 ∧ opField 0xDFFFFFFFFF#40 = 0b110#3 ∧
    opField 0xE000000000#40 = 0b111#3 := by decide

/-! ## Hypotheses met: clock edges -/

theorem witness_StepRunsAcceptedCommand :
    let s := driven ⟨false, true, 0x803F800000#40, true⟩ afterOne
    s.initialised = true ∧ (nextEdge s).rst = false ∧ (nextEdge s).cmdValid = true ∧ cmdReady false s = true := by decide

/-- No command offered; the block still executing; the response buffer full. -/
theorem witness_WaitingChangesNoRegister :
    let offer : PortEdge := ⟨false, true, 0x803F800000#40, false⟩
    ∀ s ∈ [afterOne,
        driven offer { afterOne with busy := 1, impl := { ImplParams.reference with iiExtra := 1 } },
        driven offer { afterOne with impl := { ImplParams.reference with rspRoomExtra := some 0 } }],
      s.initialised = true ∧ (nextEdge s).rst = false ∧ ((nextEdge s).cmdValid && cmdReady false s) = false := by decide

/-- A response taken and a command accepted at one edge. -/
theorem witness_ResponsesFormAQueue :
    let s := driven ⟨false, true, 0xB200000000#40, true⟩ afterOne
    (∃ t, step s = .next t ∧ t.rspq = [⟨.peek, 0x3A149000#32, 0⟩]) ∧ (nextEdge s).rst = false ∧
    (rspValid false s && (nextEdge s).rspReady) = true ∧ (nextEdge s).cmdValid = true ∧ cmdReady false s = true :=
  ⟨⟨_, rfl, by decide⟩, by decide, by decide, by decide, by decide⟩

/-- A front response of either kind that waits no longer, and one that is not taken. -/
theorem witness_OfferedResponseIsHeld :
    (∀ q ∈ [Response.mk .sample 0x35EB4494#32 0, ⟨.peek, 0x3A149000#32, 0⟩],
      q.wait = 0 ∧ ({ afterOne with rspq := [q] } : State).rspq = q :: []) ∧
    (∃ t, step afterOne = .next t) ∧ (nextEdge afterOne).rst = false ∧ rspValid false afterOne = true ∧
    (nextEdge afterOne).rspReady = false := ⟨by decide, ⟨_, rfl⟩, by decide, by decide, by decide⟩

/-- A response that still waits two edges, and one that waits none. -/
theorem witness_ResponseOfferedWhenItsWaitEnds :
    let s : State := { afterOne with rspq := [⟨.sample, 0x35EB4494#32, 2⟩] }
    (s.initialised = true ∧ s.inputs = [] ∧ s.rspq = ⟨.sample, 0x35EB4494#32, 2⟩ :: [] ∧ 1 < 2) ∧
    (afterOne.initialised = true ∧ afterOne.inputs = [] ∧ afterOne.rspq = ⟨.sample, 0x35EB4494#32, 0⟩ :: []) := by
  decide

theorem witness_ReadyAgainWhenExecutionEnds :
    let s : State := { afterOne with busy := 2 }
    (s.initialised = true ∧ s.inputs = [] ∧ rspFull s = false ∧ 1 < s.busy) ∧
    (afterOne.initialised = true ∧ afterOne.inputs = [] ∧ rspFull afterOne = false ∧ afterOne.busy = 0) := by decide

/-- All three bits set, a command offered while the block is still executing. -/
theorem witness_StatusPortsShowStatus :
    let s := driven ⟨false, true, 0xC000000000#40, false⟩
      { afterOne with busy := 1, errOp := true, errIdx := true, cfgNonfinite := true }
    (∃ t, step s = .next t) ∧ (nextEdge s).rst = false ∧ ((nextEdge s).cmdValid && cmdReady false s) = false :=
  ⟨⟨_, rfl⟩, by decide, by decide⟩

/-- An `ExpF` that is infinite at the default attack argument. -/
def overflowing : ImplParams := { ImplParams.reference with expPoints := [(0xBA149B93#32, 0x7F800000#32)] }

/-- Reset before anything was defined, with a command offered, for the reference `ExpF` and for one with which DEFAULTS
sets CFG_NONFINITE. -/
theorem witness_ResetEdgeSetsEverything :
    let s := driven ⟨true, true, 0x803F800000#40, true⟩ { afterOne with initialised := false, errOp := true, busy := 3 }
    let s' : State := { s with impl := overflowing }
    (nextEdge s).rst = true ∧ s.impl.expPoints = [] ∧ (nextEdge s').rst = true ∧ s'.impl.expPoints ≠ [] ∧
    ∃ u, exec .defaults s' = .next u ∧ u.alphaA = 0x7F800000#32 ∧ u.cfgNonfinite = true :=
  ⟨by decide, by decide, by decide, by decide, _, exec_eq _ _, by decide +kernel⟩

/-- D13: STATUS reads 0 after a reset, though the `ExpF` makes a coefficient infinite (R44, R55, R220). -/
theorem test_reset_status :
    (stepped (driven ⟨true, false, 0#40, false⟩ { afterOne with cfgNonfinite := true, impl := overflowing })).map
      (fun t => (t.alphaA, readReg .status t)) = some (0x7F800000#32, 0x00000000#32) := by decide +kernel

theorem witness_NothingTransfersDuringReset :
    (nextEdge (driven ⟨true, true, 0x803F800000#40, true⟩ afterOne)).rst = true ∧
    PortEdge.rst ⟨true, false, 0#40, false⟩ = true := by decide

theorem witness_RefusesBeforeFirstReset :
    let s : State := { State.reset with initialised := false }
    s.initialised = false ∧ (nextEdge s).rst = false ∧ (nextEdge (driven ⟨true, false, 0#40, false⟩ s)).rst = true := by
  decide

/-- The state after a sample, at an edge that accepts another; and the state a reset leaves with an `ExpF` that makes a
coefficient infinite, which meets the invariant by its last alternative only. -/
theorem witness_StepKeepsFilterInv :
    let s := driven ⟨false, true, 0x80BF800000#40, false⟩ afterOne
    let s' := resetBlock { State.reset with impl := overflowing }
    (FilterInv s ∧ ∃ t, step s = .next t ∧ data t = [0x35EB4494#32, 0x36878B80#32]) ∧
    (FilterInv s' ∧ s'.cfgNonfinite ≠ anyNonfinite s' ∧ ∃ t, step s' = .next t) := by
  refine ⟨⟨⟨by decide, fun r h => ?_, by decide, .inl (by decide)⟩, _, rfl, by decide +kernel⟩,
    ⟨⟨by decide +kernel, fun r h => ?_, by decide +kernel, .inr ⟨rfl, agree_resetBlock _⟩⟩,
      by decide +kernel, _, step_idle rfl rfl⟩⟩
  · cases r <;> first | exact absurd h Bool.false_ne_true | decide
  · cases r <;> first | exact absurd h Bool.false_ne_true | decide +kernel

/-- A bounded buffer that is full, with waits and a busy count at their bounds. -/
theorem witness_StepKeepsChannelInv :
    let s : State := { afterOne with
      rspq := [⟨.sample, 0x35EB4494#32, 0⟩, ⟨.peek, 0#32, 2⟩]
      busy := 1, impl := { expPoints := [], latencyExtra := 2, iiExtra := 1, rspRoomExtra := some 1 } }
    ChannelInv s ∧ ∃ t, step s = .next t :=
  ⟨⟨by decide, by decide, by decide, by intro n h; cases h; decide⟩, _, rfl⟩

theorem witness_BlockNeverTraps : afterOne.initialised = true := by decide

theorem witness_ErrorBitsAreSticky :
    let s := driven ⟨false, true, 0x6000000000#40, false⟩ { afterOne with errOp := true, errIdx := true }
    (∃ t, step s = .next t) ∧ (nextEdge s).rst = false ∧ s.errOp = true ∧ s.errIdx = true :=
  ⟨⟨_, rfl⟩, by decide, by decide, by decide⟩

/-! ## Hypotheses met: commands -/

/-- Every command and index at the edge of its range completes, so a hypothesis that it does is met. -/
theorem witness_commands_complete :
    ∀ i ∈ [Instr.nop, .setp 5#5 0#32, .setp 6#5 0#32, .construct, .defaults, .process 0x7F800001#32, .peek 24#5,
      .peek 25#5, .reserved110, .reserved111], ∃ t, exec i afterOne = .next t := fun i _ => ⟨_, exec_eq i afterOne⟩

theorem witness_ErrorsAreExact :
    Instr.wellFormed (.setp 5#5 0#32) = true ∧ Instr.badIndex (.setp 6#5 0#32) = true ∧
    Instr.badIndex (.peek 25#5) = true ∧ Instr.reservedOp .reserved111 = true := by decide

/-- A command of each kind the clauses name: a construction, and one that is none. -/
theorem witness_CfgNonfiniteReflectsConstruction :
    (∃ t, exec .construct { afterOne with pQ := 0xBE4CCCCD#32 } = .next t ∧ t.cfgNonfinite = true) ∧
    (∃ t, exec .defaults afterOne = .next t ∧ t.cfgNonfinite = false) ∧
    (∃ t, exec .nop { afterOne with cfgNonfinite := true } = .next t) ∧ Instr.nop ≠ .construct ∧ Instr.nop ≠ .defaults :=
  ⟨⟨_, exec_eq _ _, by decide +kernel⟩, ⟨_, exec_eq _ _, by decide +kernel⟩, ⟨_, exec_eq _ _⟩, by decide, by decide +kernel⟩

theorem witness_OneResponsePerProcessOrPeek :
    (∃ t, exec (.process 0x80000000#32) afterOne = .next t) ∧ (∃ t, exec (.peek 25#5) afterOne = .next t) ∧
    (∃ t, exec .construct afterOne = .next t) ∧ (∀ x, Instr.construct ≠ .process x) ∧
    (∀ idx, Instr.construct ≠ .peek idx) :=
  ⟨⟨_, exec_eq _ _⟩, ⟨_, exec_eq _ _⟩, ⟨_, exec_eq _ _⟩, by simp, by simp⟩

theorem witness_ParametersChangeOnlyBySetpOrDefaults :
    (∃ t, exec (.setp 5#5 0#32) State.reset = .next t ∧ readParam .mix t ≠ readParam .mix State.reset) ∧
    (∃ t, exec .defaults { State.reset with pTauA := 0#32 } = .next t ∧
      readParam .tauA t ≠ readParam .tauA { State.reset with pTauA := 0#32 }) :=
  ⟨⟨_, exec_eq _ _, by decide +kernel⟩, ⟨_, exec_eq _ _, by decide +kernel⟩⟩

theorem witness_CoefficientsChangeOnlyByConstruction :
    (∃ t, exec (.process 0x3F800000#32) afterOne = .next t) ∧ Instr.process 0x3F800000#32 ≠ .construct ∧
    Instr.process 0x3F800000#32 ≠ .defaults := ⟨⟨_, exec_eq _ _⟩, by decide, by decide +kernel⟩

theorem witness_DatapathPersistsBetweenSamples :
    (∃ t, exec (.setp 4#5 0#32) afterOne = .next t) ∧ (∀ x, Instr.setp 4#5 0#32 ≠ .process x) ∧
    Instr.setp 4#5 0#32 ≠ .construct ∧ Instr.setp 4#5 0#32 ≠ .defaults := ⟨⟨_, exec_eq _ _⟩, by simp, by decide, by decide +kernel⟩

/-- The indices where the clauses of SETP and PEEK meet, and the last one. -/
theorem witness_index_ranges :
    (0#5 : RegIdx).toNat ≤ 24 ∧ (24#5 : RegIdx).toNat ≤ 24 ∧ 25 ≤ (25#5 : RegIdx).toNat ∧ 25 ≤ (31#5 : RegIdx).toNat ∧
    6 ≤ (6#5 : RegIdx).toNat ∧ 6 ≤ (31#5 : RegIdx).toNat := by decide

/-- A PEEK of a reserved index, then commands of several kinds, two of them PROCESS. -/
theorem witness_PeekChangesNoLaterSample :
    let cs := [Instr.peek 24#5, .process 0xBF800000#32, .construct, .process 0x3F800000#32]
    ∃ t u v, exec (.peek 31#5) afterOne = .next t ∧ execAll cs t = .next u ∧ execAll cs afterOne = .next v :=
  ⟨_, _, _, exec_eq _ _, rfl, rfl⟩

/-- A state after samples, of an implementation with another `LATENCY`, against one just reset, with the same
parameters. -/
theorem witness_ConstructForgetsFilterState :
    let s' : State := { afterOne with
      alphaA := 0x7FC00000#32, cfgNonfinite := true, errOp := true
      impl := { ImplParams.reference with latencyExtra := 3 } }
    (∀ p, readParam p s' = readParam p State.reset) ∧ s'.impl.expPoints = State.reset.impl.expPoints ∧
    (∃ t, exec .construct State.reset = .next t) ∧ ∃ t, exec .construct s' = .next t :=
  ⟨fun p => by cases p <;> rfl, rfl, ⟨_, exec_eq _ _⟩, _, exec_eq _ _⟩

/-- The reference `ExpF`, which ConstructDerivesCoefficients and DefaultsIsADefaultConstruction name. -/
theorem witness_DefaultsIsADefaultConstruction :
    (∃ t, exec .defaults afterOne = .next t) ∧ afterOne.impl.expPoints = [] := ⟨⟨_, exec_eq _ _⟩, rfl⟩

/-- Every τ the clauses name, in both time constants. -/
theorem witness_DegenerateTimeConstants :
    (∀ tau ∈ [0x00000000#32, 0x80000000#32, 0x7F800000#32, 0xFF800001#32],
      ∃ t, exec .construct { State.reset with pTauA := tau, pTauR := tau } = .next t) ∧
    isNaN 0xFF800001#32 = true := ⟨fun _ _ => ⟨_, exec_eq _ _⟩, by decide +kernel⟩

/-- The least negative q but one, −∞ and the two values named. -/
theorem witness_DegenerateQAndMix :
    (∀ q ∈ [0x80000002#32, 0xFF800000#32, 0x80000001#32, 0x00000000#32],
      ∃ t, exec .construct { State.reset with pQ := q } = .next t) ∧
    ∀ q ∈ [0x80000002#32, 0xFF800000#32],
      sign q = true ∧ isNaN q = false ∧ isZero q = false ∧ q ≠ 0x80000001#32 :=
  ⟨fun _ _ => ⟨_, exec_eq _ _⟩, each (by decide)⟩

/-- A function with the properties of R21 that is no exponential. -/
theorem witness_EveryAdmissibleExpFIsModelled :
    ExpProperties (fun a => if isNaN a then a else if a = Config.negInf then Config.zero
      else if a = Config.posInf then Config.posInf else Config.one) := by
  refine ⟨fun a h => by simp [h], by decide, by decide, by decide, by decide, fun a h => ?_⟩
  simp only [h, Bool.false_eq_true, if_false]
  split
  · decide
  · split <;> decide

/-- States that differ in everything a sample must not depend on. -/
theorem witness_ProcessDependsOnFilterStateOnly :
    let s' : State := { afterOne with
      pMix := 0#32, cf := 0x7FC00000#32, hp := 0x3F800000#32, errIdx := true, cfgNonfinite := true, rspq := []
      impl := { expPoints := [], latencyExtra := 3, iiExtra := 0, rspRoomExtra := none } }
    Agree isCoefficient afterOne s' ∧ Agree carriesOver afterOne s' ∧
    (∃ t, exec (.process 0xBF800000#32) afterOne = .next t) ∧ ∃ t, exec (.process 0xBF800000#32) s' = .next t := by
  refine ⟨fun r h => ?_, fun r h => ?_, ⟨_, exec_eq _ _⟩, _, exec_eq _ _⟩ <;> cases r <;> first | exact absurd h Bool.false_ne_true | rfl

theorem witness_StagedParameterHasNoEffectOnProcess :
    ∃ t u w, exec (.setp 5#5 0#32) afterOne = .next t ∧ exec (.process 0xBF800000#32) t = .next u ∧
      exec (.process 0xBF800000#32) afterOne = .next w := ⟨_, _, _, exec_eq _ _, exec_eq _ _, exec_eq _ _⟩

/-- The least NaN, a signalling one. -/
theorem witness_NaNSamplePoisonsDatapath : isNaN 0x7F800001#32 = true := by decide

/-- A NaN in REL alone, and in each of the four registers that keep it. -/
theorem witness_NaNStatePersists :
    (∃ t, exec (.process 0x80000000#32) { afterOne with rel := 0x7FC00000#32 } = .next t) ∧
    isNaN 0x80000000#32 = false ∧
    ∀ s ∈ [{ afterOne with att := 0xFFFFFFFF#32 }, { afterOne with dly := 0x7FC00000#32 },
        { afterOne with bp := 0x7F800001#32 }, { afterOne with lp := 0x7FC00000#32 }],
      isNaN s.att = true ∨ isNaN s.dly = true ∨ isNaN s.bp = true ∨ isNaN s.lp = true :=
  ⟨⟨_, exec_eq _ _⟩, by decide, by decide +kernel⟩

/-- Both infinities as the sample, and a sample of −0 after one of them. -/
theorem witness_InfiniteSampleSaturates :
    let s : State := { afterOne with rel := 0x7F800000#32, att := 0x7F800000#32, dly := 0x7FC00000#32 }
    (∀ a ∈ [s.alphaA, s.betaA, s.alphaR, s.betaR, s.freqBw], isFinite a = true ∧ sign a = false ∧ isZero a = false) ∧
    isFinite s.minFreq = true ∧ isNaN s.rel = false ∧ sign s.rel = false ∧ isNaN s.att = false ∧ sign s.att = false ∧
    (∀ x ∈ [0x7F800000#32, 0xFF800000#32], isNaN x = false ∧ isInf x = true) ∧
    isNaN 0x80000000#32 = false ∧ isInf s.rel = true ∧ isInf s.att = true :=
  ⟨each (by decide), by decide, by decide, by decide, by decide, by decide, each (by decide), by decide, by decide,
    by decide⟩

/-- The reset state, with either zero. -/
theorem witness_SilenceFromConstructedState :
    let s := State.reset
    isZero 0x00000000#32 = true ∧ isZero 0x80000000#32 = true ∧
    s.rel = 0#32 ∧ s.att = 0#32 ∧ s.dly = 0#32 ∧ s.bp = 0#32 ∧ s.lp = 0#32 ∧
    (∀ a ∈ [s.alphaA, s.betaA, s.alphaR, s.betaR, s.freqBw], isFinite a = true) ∧
    sign s.alphaA = false ∧ sign s.alphaR = false ∧
    (∀ a ∈ [s.minFreq, s.qc, s.gainLp, s.alphaMix, s.betaMix, svfF s.minFreq], isFinite a = true ∧ sign a = false) ∧
    orderKey (approxTan s.minFreq) < orderKey 0x3F800000#32 :=
  ⟨by decide, by decide, rfl, rfl, rfl, rfl, rfl, each (by decide), by decide, by decide, each (by decide +kernel),
    by decide +kernel⟩

/-- V24's configuration: a finite wet output with an ordinary sample and with −0, and an infinite sample, whose wet
output is no finite value. -/
theorem witness_MixZeroGivesDrySample :
    let s : State := { afterOne with pMix := 0#32, alphaMix := 0#32, betaMix := 0x3F800000#32 }
    (∃ t, exec .construct s = .next t) ∧
    (∀ x ∈ [0x3E800000#32, 0x80000000#32], ∃ t, exec (.process x) s = .next t ∧ isFinite t.bp = true ∧
      isNaN x = false) ∧
    ∃ t, exec (.process 0x7F800000#32) s = .next t ∧ isFinite t.bp = false := by
  refine ⟨⟨_, exec_eq _ _⟩, fun x hx => ⟨_, exec_eq _ _, ?_⟩, _, exec_eq _ _, by decide +kernel⟩
  revert x; exact each (by decide +kernel)

/-- The default mix, with a finite sample and BP, a finite sample and a BP of −0 (a GAIN_LP of +0 and a QC of −0), and an infinite sample. -/
theorem witness_MixOneGivesWetSample :
    (∃ t, exec .construct State.reset = .next t) ∧ State.reset.pMix = 0x3F800000#32 ∧
    (∃ t, exec (.process 0x3F000000#32) afterOne = .next t ∧ isFinite 0x3F000000#32 = true ∧ t.bp ≠ 0x80000000#32) ∧
    (∃ t, exec (.process 0xBF800000#32) { State.reset with gainLp := 0#32, qc := 0x80000000#32, bp := 0x80000000#32 } =
      .next t ∧ t.bp = 0x80000000#32) ∧
    isFinite 0xFF800000#32 = false :=
  ⟨⟨_, exec_eq _ _⟩, rfl, ⟨_, exec_eq _ _, by decide, by decide +kernel⟩, ⟨_, exec_eq _ _, by decide +kernel⟩,
    by decide⟩

/-- ALPHA at either bound, REL and ATT at theirs, at an edge that accepts the sample −1.0. -/
theorem witness_EnvelopeStaysInUnitRange :
    let s := driven ⟨false, true, 0x80BF800000#40, false⟩ { afterOne with
      alphaA := 0x3F000000#32, betaA := 0x3F000000#32, alphaR := 0x3F800000#32, betaR := 0#32
      rel := 0x3F800000#32, att := 0#32 }
    EnvelopeInv s ∧ (∃ t, step s = .next t) ∧
    Accepts (.process 0xBF800000#32) s ∧ (∀ x, Accepts (.process x) s → inUnit (fabs x) = true) ∧
    inUpperHalf s.alphaA = true ∧ inUpperHalf s.alphaR = true ∧
    isFinite s.minFreq = true ∧ isFinite s.freqBw = true ∧ 0 ≤ orderKey s.minFreq ∧ 0 ≤ orderKey s.freqBw := by
  refine ⟨⟨by decide +kernel, by decide +kernel, fun _ _ => by decide⟩, ⟨_, rfl⟩, by unfold Accepts; decide, ?_,
    by decide, by decide, by decide, by decide, by decide, by decide⟩
  rintro x ⟨-, -, -, h⟩
  have h : Instr.process 0xBF800000#32 = .process x := h
  cases h
  decide

/-- An edge that accepts no PROCESS, from a state whose ALPHA_A is outside [0.5, 1] and whose REL is above 1. -/
theorem witness_EnvelopeStaysInUnitRange_outside :
    let s := driven ⟨false, true, 0xB200000000#40, false⟩
      { afterOne with alphaA := 0#32, betaA := 0x3F800000#32, rel := 0x41200000#32 }
    EnvelopeInv s ∧ (∃ t, step s = .next t) ∧ ∀ x, ¬ Accepts (.process x) s := by
  refine ⟨⟨by decide +kernel, by decide +kernel, fun h => absurd h (by decide)⟩, ⟨_, rfl⟩, ?_⟩
  rintro x ⟨-, -, -, h⟩
  have h : Instr.peek 18#5 = .process x := h
  cases h

/-! ## Hypotheses met: arithmetic -/

/-- The largest finite value, the least subnormal, both zeros and both infinities; a sum and a difference that are
zero. -/
theorem witness_rounding :
    (∀ a ∈ [0x7F7FFFFF#32, 0x00000001#32, 0x00000000#32, 0x80000000#32], isFinite a = true) ∧
    isZero 0x00000001#32 = false ∧ isZero 0xFF7FFFFF#32 = false ∧ sign 0x7F7FFFFF#32 = false ∧
    (∀ a ∈ [0x7F800000#32, 0xFF800000#32], isInf a = true) ∧
    sign 0x7F800000#32 = sign 0x7F800000#32 ∧ sign 0x7F800000#32 ≠ sign 0xFF800000#32 ∧
    (isNaN 0xFF800000#32 = false ∧ isZero 0xFF800000#32 = false ∧ isNaN 0x00000001#32 = false) ∧
    isZero 0x00000000#32 = true ∧
    (val 0x80000000#32 + val 0x80000000#32 = 0 ∧ val 0x7F7FFFFF#32 + val 0xFF7FFFFF#32 = 0 ∧
      val 0x80000000#32 - val 0x00000000#32 = 0) :=
  ⟨each (by decide), by decide, by decide, by decide, each (by decide), by decide, by decide, by decide, by decide,
    by decide⟩

theorem witness_NaNResultsAreCanonical :
    isNaN 0x7F800001#32 = true ∧ isNaN 0xFFFFFFFF#32 = true ∧
    isNaN (fsub 0x7F800000#32 0x7F800000#32) = true := by decide

theorem witness_ZeroSignsAndInvalidOperations :
    isFinite 0xFF7FFFFF#32 = true ∧ isNaN (fmul 0xFF800000#32 0x00000001#32) = false ∧
    isNaN (fdiv 0x3F800000#32 0x80000000#32) = false ∧ isZero 0x80000000#32 = true ∧ isZero 0x00000000#32 = true ∧
    isInf 0xFF800000#32 = true ∧ isInf 0x7F800000#32 = true ∧
    sign 0xFF800000#32 = sign 0xFF800000#32 ∧ sign 0xFF800000#32 ≠ sign 0x7F800000#32 ∧
    (isNaN 0x80000001#32 = false ∧ isZero 0x80000001#32 = false ∧ sign 0x80000001#32 = true) ∧
    (isFinite 0x00000001#32 = true ∧ isZero 0x00000001#32 = false) := by decide

theorem witness_FabsAndFmax :
    isNaN 0x7F800001#32 = true ∧ isNaN 0x80000000#32 = false ∧ isFinite 0x80000000#32 = true ∧
    isFinite 0x00000000#32 = true ∧ isNaN 0x7F800000#32 = false ∧ isNaN 0xFF800000#32 = false := by decide

end Sys2Proof.Tests
end

section
/-! The scope's statements on the ports (00_scope.md R10): the invariant of the two channels, and what idle edges do to
the waits. -/

namespace Sys2Proof.Machine
open Sys2Proof.Safety

/-! ## The ports' invariant (R10, R76) -/

theorem takeResponse_rspq_sublist (e : PortEdge) (s : State) : (takeResponse e s).rspq.Sublist s.rspq := by
  rw [takeResponse_rspq]
  split
  · exact List.tail_sublist _
  · exact List.Sublist.refl _

/-- A command emits at most one response, which waits `LATENCY` − 1 edges. -/
theorem after_rspq_cases (i : Instr) (s : State) :
    (after i s).rspq = s.rspq ∨ ∃ q, q.wait = s.impl.latencyExtra ∧ (after i s).rspq = s.rspq ++ [q] := by
  rw [after_rspq]
  cases i with
  | process x => exact .inr ⟨_, rfl, rfl⟩
  | peek idx => exact .inr ⟨_, rfl, rfl⟩
  | _ => exact .inl (List.append_nil _)

theorem channelInv_resetBlock (s : State) : ChannelInv (resetBlock s) := by simp [ChannelInv]

theorem channelInv_takeResponse {s : State} (e : PortEdge) (h : ChannelInv s) : ChannelInv (takeResponse e s) := by
  obtain ⟨hord, hwait, hbusy, hroom⟩ := h
  have hsub := takeResponse_rspq_sublist e s
  refine ⟨hord.sublist hsub, fun q hq => ?_, by simpa using hbusy, fun n hn => ?_⟩
  · simpa using hwait q (hsub.subset hq)
  · exact hsub.length_le.trans (hroom n (by simpa using hn))

theorem channelInv_tick {s : State} (h : ChannelInv s) : ChannelInv (tick s) := by
  obtain ⟨hord, hwait, hbusy, hroom⟩ := h
  refine ⟨?_, fun q hq => ?_, ?_, fun n hn => by simpa using hroom n hn⟩
  · exact List.pairwise_map.2 (hord.imp fun hle => Nat.sub_le_sub_right hle 1)
  · obtain ⟨q', hq', rfl⟩ := List.mem_map.1 hq
    exact (Nat.sub_le _ 1).trans (hwait q' hq')
  · exact (Nat.sub_le _ 1).trans hbusy

theorem channelInv_beginCommand {s : State} (h : ChannelInv s) : ChannelInv (beginCommand s) := by
  obtain ⟨hord, hwait, -, hroom⟩ := h
  exact ⟨hord, hwait, le_rfl, hroom⟩

/-- A command keeps the invariant where the buffer has room for one response more. -/
theorem channelInv_after {s : State} (i : Instr) (h : ChannelInv s)
    (room : ∀ n, s.impl.rspRoomExtra = some n → s.rspq.length ≤ n) : ChannelInv (after i s) := by
  obtain ⟨hord, hwait, hbusy, hroom⟩ := h
  obtain ⟨ebusy, -, -, eimpl⟩ := after_outside i s
  unfold ChannelInv
  rw [ebusy, eimpl]
  rcases after_rspq_cases i s with hq | ⟨q, hqw, hq⟩ <;> rw [hq]
  · exact ⟨hord, hwait, hbusy, hroom⟩
  · refine ⟨List.pairwise_append.2 ⟨hord, List.pairwise_singleton _ _, fun p hp r hr => ?_⟩, fun p hp => ?_, hbusy,
      fun n hn => by simpa using room n hn⟩
    · rw [List.mem_singleton.1 hr, hqw]
      exact hwait p hp
    · rcases List.mem_append.1 hp with hp | hp
      · exact hwait p hp
      · rw [List.mem_singleton.1 hp, hqw]

/-- A block that is ready has room in its response buffer. -/
theorem room_of_cmdReady {s : State} (h : cmdReady false s = true) {n : Nat} (hn : s.impl.rspRoomExtra = some n) :
    s.rspq.length ≤ n := by
  simp only [cmdReady, rspFull, hn, Bool.and_eq_true, Bool.not_eq_true', decide_eq_false_iff_not] at h
  omega

/-- Settles O21: each of the three kinds of clock edge keeps the invariant; an accepted command finds room, since
`cmd_ready` was high. -/
theorem stepKeepsChannelInv : Obligations.StepKeepsChannelInv := by
  intro s t h hstep
  rcases step_cases hstep with ⟨-, rfl⟩ | ⟨-, -, -, rfl⟩ | ⟨-, -, -, hready, rfl⟩
  · exact channelInv_resetBlock _
  · exact channelInv_tick (channelInv_takeResponse _ h)
  · refine channelInv_after _ (channelInv_beginCommand (channelInv_tick (channelInv_takeResponse _ h))) fun n hn => ?_
    have hlen := (takeResponse_rspq_sublist (nextEdge s) s).length_le
    simpa using hlen.trans (room_of_cmdReady hready (by simpa using hn))

/-! ## Time passing while the host is idle (R10, R76, R92) -/

/-- `m` edges less to wait. -/
theorem tick_iterate_wait (m : Nat) (q : Response) : (Response.tick^[m] q).wait = q.wait - m := by
  induction m with
  | zero => rfl
  | succ m ih => rw [Function.iterate_succ_apply', Response.tick, ih, Nat.sub_sub]

theorem tick_iterate_rspq (m : Nat) (s : State) : (tick^[m] s).rspq = s.rspq.map Response.tick^[m] := by
  induction m with
  | zero => simp
  | succ m ih => rw [Function.iterate_succ_apply', tick_rspq, ih, List.map_map, Function.iterate_succ']

theorem tick_iterate_busy (m : Nat) (s : State) : (tick^[m] s).busy = s.busy - m := by
  induction m with
  | zero => rfl
  | succ m ih => rw [Function.iterate_succ_apply', tick_busy, ih, Nat.sub_sub]

theorem tick_iterate_impl (m : Nat) (s : State) : (tick^[m] s).impl = s.impl := by
  induction m with
  | zero => rfl
  | succ m ih => rw [Function.iterate_succ_apply', tick_impl, ih]

/-- A run whose first step answers `t` goes on from `t`. -/
theorem run_succ_of_step {M : Host.Core} {s t : M.State} (m : Nat) (h : M.step s = .next t) :
    M.run (m + 1) s = M.run m t := by
  rw [Host.Core.run, h]

/-- While the host is idle, a run only lets time pass. -/
theorem run_idle (m : Nat) {s : State} (hi : s.initialised = true) (hin : s.inputs = []) :
    core.run m s = .next (tick^[m] s) := by
  induction m generalizing s with
  | zero => rfl
  | succ m ih =>
    rw [Function.iterate_succ_apply]
    exact (run_succ_of_step (M := core) m (step_idle hi hin)).trans (ih hi (by rw [tick_inputs, hin]; rfl))

theorem rspValid_cons {s : State} {q : Response} {rest : List Response} (h : s.rspq = q :: rest) :
    rspValid false s = decide (q.wait = 0) := by simp [rspValid, h]

/-- After `m` idle edges the front response is offered exactly when it had at most `m` edges to wait. -/
theorem rspValid_tick_iterate {s : State} {q : Response} {rest : List Response} (h : s.rspq = q :: rest) (m : Nat) :
    rspValid false (tick^[m] s) = decide (q.wait ≤ m) := by
  rw [rspValid_cons (by rw [tick_iterate_rspq, h, List.map_cons]), tick_iterate_wait]
  exact decide_eq_decide.2 Nat.sub_eq_zero_iff_le

/-- Idle edges neither fill nor empty the response buffer. -/
theorem rspFull_tick_iterate (m : Nat) (s : State) : rspFull (tick^[m] s) = rspFull s := by
  simp only [rspFull, tick_iterate_impl, tick_iterate_rspq, List.length_map]

/-- After `m` idle edges a block with room is ready exactly when it was busy for at most `m` edges. -/
theorem cmdReady_tick_iterate {s : State} (h : rspFull s = false) (m : Nat) :
    cmdReady false (tick^[m] s) = decide (s.busy ≤ m) := by
  simp [cmdReady, rspFull_tick_iterate, h, tick_iterate_busy, Nat.sub_eq_zero_iff_le]

/-- Settles O12: an idle run of `m` edges takes `m` from the front response's wait. -/
theorem responseOfferedWhenItsWaitEnds : Obligations.ResponseOfferedWhenItsWaitEnds := by
  intro s q rest hi hin hq
  refine ⟨fun m hm => ⟨_, run_idle m hi hin, ?_⟩, _, run_idle q.wait hi hin, ?_⟩ <;> rw [rspValid_tick_iterate hq]
  · exact decide_eq_false (Nat.not_le.2 hm)
  · exact decide_eq_true le_rfl

/-- Settles O13: an idle run of `m` edges takes `m` from the busy count and leaves the response buffer as full as it
was. -/
theorem readyAgainWhenExecutionEnds : Obligations.ReadyAgainWhenExecutionEnds := by
  intro s hi hin hfull
  refine ⟨fun m hm => ⟨_, run_idle m hi hin, ?_⟩, _, run_idle s.busy hi hin, ?_⟩ <;> rw [cmdReady_tick_iterate hfull]
  · exact decide_eq_false (Nat.not_le.2 hm)
  · exact decide_eq_true le_rfl

end Sys2Proof.Machine
end

section
/-! The scope's statements on binary32 arithmetic and `ExpF` (00_scope.md R12 to R16, R21). -/

namespace Sys2Proof.Float
open Sys2Proof.Safety

/-! ## Signed zeros and infinities -/

theorem pack_infinity (b : Bool) : pack b 0x7F800000 = if b then 0xFF800000#32 else 0x7F800000#32 := by
  cases b <;> decide

theorem pack_zero (b : Bool) : pack b 0 = if b then 0x80000000#32 else 0x00000000#32 := by cases b <;> decide

theorem inf_cases {a : F32} (h : isInf a = true) : a = Config.posInf ∨ a = Config.negInf := by
  rw [isInf_eq h]
  cases sign a
  · exact .inl rfl
  · exact .inr rfl

theorem not_zero_of_inf {a : F32} (h : isInf a = true) : isZero a = false := by
  rw [isInf_iff] at h; rw [← Bool.not_eq_true, isZero_iff]; omega

theorem fneg_of_inf {a : F32} (h : isInf a = true) : fneg a = pack (!sign a) 0x7F800000 := by
  rw [isInf_iff] at h; rw [fneg, h]

/-- A value is at least +0 in the numeric order where it has no sign or is −0. -/
theorem orderKey_nonneg_iff (a : F32) : 0 ≤ orderKey a ↔ (sign a && !isZero a) = false := by
  have hz := isZero_iff a
  unfold orderKey
  generalize a.toNat % 2 ^ 31 = m at *
  cases hs : sign a
  · simp
  · cases h : isZero a <;> simp_all

/-! ## `ExpF` (R21) -/

theorem conformExp_nan {a : F32} (r : F32) (h : isNaN a = true) :
    conformExp a r = if isNaN r then r else Config.canonNaN := by simp [conformExp, h]

theorem conformExp_inf {a : F32} (r : F32) (h : isInf a = true) :
    conformExp a r = if sign a then Config.zero else Config.posInf := by simp [conformExp, not_nan_of_inf h, h]

theorem conformExp_zero {a : F32} (r : F32) (h : isZero a = true) : conformExp a r = Config.one := by
  simp [conformExp, not_nan_of_finite (finite_of_zero h), not_inf_of_zero h, h]

theorem conformExp_other {a : F32} (r : F32) (hn : isNaN a = false) (hi : isInf a = false) (hz : isZero a = false) :
    conformExp a r = if isNaN r || (sign r && !isZero r) then Config.zero else r := by simp [conformExp, hn, hi, hz]

/-- What R21 asks at an argument that is no NaN. -/
theorem conformExp_nonneg {a : F32} (r : F32) (h : isNaN a = false) :
    isNaN (conformExp a r) = false ∧ 0 ≤ orderKey (conformExp a r) := by
  cases hi : isInf a
  · cases hz : isZero a
    · rw [conformExp_other r h hi hz]
      cases hr : (isNaN r || (sign r && !isZero r))
      · rw [Bool.or_eq_false_iff] at hr
        exact ⟨hr.1, (orderKey_nonneg_iff r).2 hr.2⟩
      · rw [if_pos rfl]; decide
    · rw [conformExp_zero r hz]
      exact ⟨by decide, by decide⟩
  · rw [conformExp_inf r hi]
    cases sign a <;> exact ⟨by decide, by decide⟩

/-- Settles O42: `conformExp` admits a value only where R21 does. -/
theorem expFHasItsProperties : Obligations.ExpFHasItsProperties := by
  intro p
  refine ⟨fun a h => ?_, conformExp_inf _ (by decide), conformExp_inf _ (by decide), conformExp_zero _ (by decide),
    conformExp_zero _ (by decide), fun a h => conformExp_nonneg _ h⟩
  rw [expF, conformExp_nan _ h]
  split
  · assumption
  · exact isNaN_canonNaN

/-- `conformExp` changes no value R21 admits. -/
theorem conformExp_eq_self {f : F32 → F32} (hf : ExpProperties f) (a : F32) : conformExp a (f a) = f a := by
  obtain ⟨hnan, hneg, hpos, hzero, hzero', hnum⟩ := hf
  rcases class_cases a with ⟨-, hi, hn⟩ | ⟨-, hi, -⟩ | ⟨-, -, hn⟩
  · cases hz : isZero a
    · rw [conformExp_other _ hn hi hz, (hnum a hn).1, (orderKey_nonneg_iff _).1 (hnum a hn).2]; rfl
    · rw [conformExp_zero _ hz, isZero_eq hz, pack_zero]
      cases sign a
      · exact hzero.symm
      · exact hzero'.symm
  · rw [conformExp_inf _ hi]
    rcases inf_cases hi with rfl | rfl
    · exact hpos.symm
    · exact hneg.symm
  · rw [conformExp_nan _ hn, hnan a hn]; rfl

/-- The points of a function at every argument in a list. -/
def expTable (f : F32 → F32) (l : List F32) : List (F32 × F32) := l.map fun x => (x, f x)

theorem expAt_expTable (f : F32 → F32) {l : List F32} {a : F32} (h : a ∈ l) : expAt (expTable f l) a = f a := by
  induction l with
  | nil => cases h
  | cons x l ih =>
    show (if x = a then f x else expAt (expTable f l) a) = f a
    split
    · next hx => rw [hx]
    · next hx => exact ih ((List.mem_cons.1 h).resolve_left fun e => hx e.symm)

/-- Settles O43: the points of the function at all 2^32 patterns. -/
theorem everyAdmissibleExpFIsModelled : Obligations.EveryAdmissibleExpFIsModelled := by
  intro f p hf
  obtain ⟨l, hl⟩ : ∃ l : List F32, ∀ a, a ∈ l :=
    ⟨(List.finRange _).map BitVec.ofFin, fun a => List.mem_map.2 ⟨a.toFin, List.mem_finRange _, rfl⟩⟩
  refine ⟨expTable f l, fun a => ?_⟩
  rw [expF, expAt_expTable f (hl a), conformExp_eq_self hf]

/-! ## Sums and differences (R14, R16) -/

theorem addFinite_of_val_eq_zero {a b : F32} (h : val a + val b = 0) : addFinite a b = pack (sign a && sign b) 0 :=
  if_pos h

theorem addFinite_of_val_ne_zero {a b : F32} (h : val a + val b ≠ 0) :
    addFinite a b = pack (decide (val a + val b < 0)) (roundMag (val a + val b).natAbs 1) := if_neg h

/-- Either zero is the rounding of 0. -/
theorem roundsTo_zero (b : Bool) : RoundsTo 0 (pack b 0) := by
  have h := roundsTo_pack (v := 0) (b := b) (n := 0) (d := 1) (by omega) (by simp) (by omega)
  rwa [roundMag_zero (by omega)] at h

theorem roundsTo_fadd {a b : F32} (ha : isFinite a = true) (hb : isFinite b = true) :
    RoundsTo ((val a : ℝ) + val b) (fadd a b) := by
  rw [fadd_finite ha hb, ← Int.cast_add]
  by_cases h : val a + val b = 0
  · rw [addFinite_of_val_eq_zero h, h, Int.cast_zero]
    exact roundsTo_zero _
  · rw [addFinite_of_val_ne_zero h]
    apply roundsTo_pack (by omega)
    · rw [Nat.cast_one, div_one, ← Int.cast_abs, Int.abs_eq_natAbs, Int.cast_natCast]
    · intro _
      rw [decide_eq_true_iff, Int.cast_lt_zero]

theorem fadd_inf_left {a b : F32} (ha : isInf a = true) (hb : isFinite b = true) : fadd a b = a := by
  simp [fadd, ha, not_nan_of_inf ha, not_nan_of_finite hb, not_inf_of_finite hb]

theorem fadd_inf_right {a b : F32} (ha : isFinite a = true) (hb : isInf b = true) : fadd a b = b := by
  simp [fadd, hb, not_nan_of_inf hb, not_nan_of_finite ha, not_inf_of_finite ha]

theorem fadd_inf_inf {a b : F32} (ha : isInf a = true) (hb : isInf b = true) :
    fadd a b = if sign a = sign b then a else Config.canonNaN := by
  simp [fadd, ha, hb, not_nan_of_inf ha, not_nan_of_inf hb]

/-- Settles O54: a difference is the sum with the sign of the second operand inverted. -/
theorem addAndSubRoundCorrectly : Obligations.AddAndSubRoundCorrectly := by
  have hneg : ∀ {b : F32}, isFinite b = true → isFinite (fneg b) = true := fun h => by rwa [isFinite_fneg]
  refine ⟨fun a b ha hb => ⟨roundsTo_fadd ha hb, ?_⟩, fun a b ha hb => ⟨fun h => ?_, fun h => ?_⟩,
    fun a b ha hb => ⟨fadd_inf_left ha hb, fadd_inf_right hb ha, fadd_inf_left ha (hneg hb), ?_⟩,
    fun a b ha hb => ⟨fun h => ?_, fun h => ?_⟩⟩
  · have h := roundsTo_fadd ha (hneg hb)
    rwa [val_fneg, Int.cast_neg, ← sub_eq_add_neg] at h
  · rw [fadd_finite ha hb, addFinite_of_val_eq_zero h, pack_zero]
  · rw [fsub, fadd_finite ha (hneg hb), addFinite_of_val_eq_zero (by rwa [val_fneg, ← sub_eq_add_neg]), pack_zero,
      sign_fneg]
  · rw [fsub, fadd_inf_right hb (by rwa [isInf_fneg]), fneg_of_inf ha, pack_infinity]
    cases sign a <;> rfl
  · rw [fadd_inf_inf ha hb, if_pos h]
  · rw [fsub, fadd_inf_inf ha (by rwa [isInf_fneg]), sign_fneg, if_pos (Bool.eq_not.2 h)]

/-! ## Products and quotients (R14, R16) -/

/-- Two values that are no zeros have opposite signs exactly where one sign bit is set. -/
theorem val_opposite_iff {a b : F32} (ha : mag a ≠ 0) (hb : mag b ≠ 0) :
    (0 < (val a : ℝ) ∧ (val b : ℝ) < 0 ∨ (val a : ℝ) < 0 ∧ 0 < (val b : ℝ)) ↔ (sign a ^^ sign b) = true := by
  rw [Ne, mag_eq_zero_iff, Bool.not_eq_true] at ha hb
  rw [Int.cast_pos, Int.cast_pos, Int.cast_lt_zero, Int.cast_lt_zero, val_pos_iff, val_neg_iff, val_pos_iff,
    val_neg_iff, ha, hb]
  cases sign a <;> cases sign b <;> decide

theorem roundsTo_fmul {a b : F32} (ha : isFinite a = true) (hb : isFinite b = true) :
    RoundsTo ((val a : ℝ) * val b / 2 ^ 149) (fmul a b) := by
  rw [fmul_finite ha hb]
  apply roundsTo_pack (by positivity)
  · rw [abs_div, abs_mul, abs_val, abs_val, abs_of_pos (by positivity)]; push_cast [Nat.cast_pow]; norm_num
  · intro hn
    have hm := Nat.pos_iff_ne_zero.1 hn
    rw [div_lt_iff₀ (by positivity), zero_mul, mul_neg_iff,
      val_opposite_iff (left_ne_zero_of_mul hm) (right_ne_zero_of_mul hm)]

theorem roundsTo_fdiv {a b : F32} (ha : isFinite a = true) (hb : isFinite b = true) (hz : isZero b = false) :
    RoundsTo ((val a : ℝ) * 2 ^ 149 / val b) (fdiv a b) := by
  have hmb : mag b ≠ 0 := by rw [Ne, mag_eq_zero_iff, hz]; exact Bool.false_ne_true
  rw [fdiv_finite ha hb hz]
  apply roundsTo_pack (Nat.pos_of_ne_zero hmb)
  · rw [abs_div, abs_mul, abs_val, abs_val, abs_of_pos (by positivity)]; push_cast [Nat.cast_pow]; norm_num
  · intro hn
    have hma := left_ne_zero_of_mul (Nat.pos_iff_ne_zero.1 hn)
    rw [mul_div_right_comm, ← lt_div_iff₀ (by positivity), zero_div, div_neg_iff, val_opposite_iff hma hmb]

theorem fmul_inf_left {a b : F32} (ha : isInf a = true) (hn : isNaN b = false) (hz : isZero b = false) :
    fmul a b = pack (sign a ^^ sign b) 0x7F800000 := by
  simp [fmul, ha, not_nan_of_inf ha, not_zero_of_inf ha, hn, hz]

theorem fmul_inf_zero {a b : F32} (ha : isInf a = true) (hb : isZero b = true) : fmul a b = Config.canonNaN := by
  simp [fmul, ha, hb, not_nan_of_inf ha, not_nan_of_finite (finite_of_zero hb)]

theorem fdiv_inf_left {a b : F32} (ha : isInf a = true) (hb : isFinite b = true) :
    fdiv a b = pack (sign a ^^ sign b) 0x7F800000 := by
  simp [fdiv, ha, not_nan_of_inf ha, not_nan_of_finite hb, not_inf_of_finite hb]

theorem fdiv_inf_right {a b : F32} (ha : isFinite a = true) (hb : isInf b = true) :
    fdiv a b = pack (sign a ^^ sign b) 0 := by
  simp [fdiv, hb, not_nan_of_inf hb, not_nan_of_finite ha, not_inf_of_finite ha]

theorem fdiv_inf_inf {a b : F32} (ha : isInf a = true) (hb : isInf b = true) : fdiv a b = Config.canonNaN := by
  simp [fdiv, ha, hb, not_nan_of_inf ha, not_nan_of_inf hb]

/-- A division by zero. -/
theorem fdiv_zero_right {a b : F32} (ha : isFinite a = true) (hb : isZero b = true) :
    fdiv a b = if isZero a then Config.canonNaN else pack (sign a ^^ sign b) 0x7F800000 := by
  simp [fdiv, hb, not_nan_of_finite ha, not_inf_of_finite ha, not_nan_of_finite (finite_of_zero hb),
    not_inf_of_zero hb]

/-- Settles O55, by the rounding of the exact quotient of the product's magnitude and 2^149. -/
theorem mulRoundsCorrectly : Obligations.MulRoundsCorrectly := by
  refine ⟨fun a b ha hb => roundsTo_fmul ha hb, fun a b ha hn hz => ?_⟩
  rw [fmul_comm b, fmul_inf_left ha hn hz, pack_infinity]
  exact ⟨rfl, rfl⟩

/-- Settles O56, by the rounding of the exact quotient of the magnitudes. -/
theorem divRoundsCorrectly : Obligations.DivRoundsCorrectly := by
  refine ⟨fun a b ha hb hz => roundsTo_fdiv ha hb hz, fun a b ha hb => ?_, fun a b ha hb => ?_⟩
  · rw [fdiv_inf_left ha hb, pack_infinity]
  · rw [fdiv_inf_right ha hb, pack_zero]

/-! ## Square roots (R14, R16) -/

/-- An odd magnitude has at most 24 bits. -/
theorem mag_lt_of_odd {a : F32} (h : mag a % 2 = 1) : mag a < 2 ^ 24 := by
  rw [mag_eq_lowMag] at h ⊢
  obtain ⟨e, r, -, hr, -, hm⟩ := low_split (a.toNat % 2 ^ 31)
  rw [hm] at h ⊢
  have he : e = 0 := by
    by_contra he
    have h2 : 2 ∣ r * 2 ^ e := (dvd_pow_self 2 he).mul_left r
    omega
  rwa [he, pow_zero, mul_one]

/-- The lesser of two points is the nearer one exactly where their middle lies above. -/
theorem abs_sub_lt_iff_of_lt {p c : ℝ} (v : ℝ) (h : p < c) : |p - v| < |c - v| ↔ 2 * v < p + c := by
  rw [← sq_lt_sq, ← sub_pos, show (c - v) ^ 2 - (p - v) ^ 2 = (c - p) * (p + c - 2 * v) by ring,
    mul_pos_iff_of_pos_left (sub_pos.2 h), sub_pos]

/-- The greater of two points is the nearer one exactly where their middle lies below. -/
theorem abs_sub_lt_iff_of_gt {p c : ℝ} (v : ℝ) (h : c < p) : |p - v| < |c - v| ↔ c + p < 2 * v := by
  rw [← sq_lt_sq, ← sub_pos, show (c - v) ^ 2 - (p - v) ^ 2 = (p - c) * (2 * v - (c + p)) by ring,
    mul_pos_iff_of_pos_left (sub_pos.2 h), sub_pos]

/-- A binary32 value as near as any to the half above a whole number `r` of more than 24 bits is no nearer to 0 than
2^24, and no farther from the half than 2^24 is. -/
theorem val_bounds_of_nearest {p : F32} {r : ℕ} (hr : 2 ^ 24 ≤ r)
    (h : |(val p : ℝ) - (r + 1 / 2)| ≤ |(val 0x01000000#32 : ℝ) - (r + 1 / 2)|) :
    2 ^ 24 ≤ val p ∧ val p ≤ 2 * r + 1 - 2 ^ 24 := by
  have h24 : (2 : ℝ) ^ 24 ≤ r := by exact_mod_cast hr
  have hval : val 0x01000000#32 = 2 ^ 24 := by decide
  rw [hval, Int.cast_pow, Int.cast_ofNat, abs_sub_comm ((2 : ℝ) ^ 24),
    abs_of_nonneg (a := (r : ℝ) + 1 / 2 - _) (by linarith), abs_le] at h
  obtain ⟨h1, h2⟩ := h
  have hlo : (2 : ℝ) ^ 24 ≤ val p := by linarith
  have hhi : (val p : ℝ) ≤ 2 * r + 1 - 2 ^ 24 := by linarith
  exact ⟨by exact_mod_cast hlo, by exact_mod_cast hhi⟩

/-- No binary32 value lies as far above that half as the nearest lies below it, or the other way round: the sum of
the two would be odd, so one of them would have at most 24 bits. -/
theorem val_add_ne_of_nearest {p : F32} (c : F32) {r : ℕ} (hr : 2 ^ 24 ≤ r)
    (h : |(val p : ℝ) - (r + 1 / 2)| ≤ |(val 0x01000000#32 : ℝ) - (r + 1 / 2)|) : val c + val p ≠ 2 * r + 1 := by
  have heven : ∀ a : F32, 2 ^ 24 ≤ val a → val a % 2 = 0 := fun a ha => by
    have := @mag_lt_of_odd a
    have := natAbs_val a
    omega
  obtain ⟨hlo, hhi⟩ := val_bounds_of_nearest hr h
  intro hsum
  have := heven p hlo
  have := heven c (by omega)
  omega

/-- Of two whole numbers whose middle is not r + 1/2, the one as near as the other to r + 1/2 is the nearer one to every
point strictly between r and r + 1. -/
theorem nearer_of_near_half {p c : ℤ} {r : ℕ} {v : ℝ} (hlo : (r : ℝ) < v) (hhi : v < r + 1) (hne : c ≠ p)
    (hmid : c + p ≠ 2 * r + 1) (h : |(p : ℝ) - (r + 1 / 2)| ≤ |(c : ℝ) - (r + 1 / 2)|) :
    |(p : ℝ) - v| < |(c : ℝ) - v| := by
  rcases lt_or_gt_of_ne hne with hlt | hgt
  · have hlt' : (c : ℝ) < p := Int.cast_lt.2 hlt
    rw [← not_lt, abs_sub_lt_iff_of_lt _ hlt', not_lt] at h
    have hle : c + p ≤ 2 * r + 1 := by
      rw [← Int.cast_le (R := ℝ)]; push_cast; linarith
    have hle' : ((c + p : ℤ) : ℝ) ≤ ((2 * r : ℤ) : ℝ) := Int.cast_le.2 (by omega)
    push_cast at hle'
    rw [abs_sub_lt_iff_of_gt _ hlt']
    linarith
  · have hgt' : (p : ℝ) < c := Int.cast_lt.2 hgt
    rw [← not_lt, abs_sub_lt_iff_of_gt _ hgt', not_lt] at h
    have hle : 2 * r + 1 ≤ c + p := by
      rw [← Int.cast_le (R := ℝ)]; push_cast; linarith
    have hle' : ((2 * r + 2 : ℤ) : ℝ) ≤ ((c + p : ℤ) : ℝ) := Int.cast_le.2 (by omega)
    push_cast at hle'
    rw [abs_sub_lt_iff_of_lt _ hgt']
    linarith

/-- An exact value between two neighbouring whole numbers of more than 24 bits is rounded as the half between them:
no boundary of the rounding lies strictly between the two. -/
theorem roundsTo_of_half {v : ℝ} {p : F32} {r : ℕ} (hr : 2 ^ 24 ≤ r) (hlo : (r : ℝ) < v) (hhi : v < r + 1)
    (h : RoundsTo (r + 1 / 2) p) : RoundsTo v p := by
  obtain ⟨hover, -, hfin, -, hsign⟩ := h
  have hr0 : (0 : ℝ) ≤ r := Nat.cast_nonneg r
  have hB0 : (0 : ℝ) ≤ overflowBound := Nat.cast_nonneg _
  refine ⟨fun hv => hover ?_, fun hv => by linarith, fun hv => ?_, fun hv => by linarith, fun _ => hsign (by linarith)⟩
  · have hlt : (overflowBound : ℝ) < ((r + 1 : ℕ) : ℝ) := by push_cast; linarith
    have hle : (overflowBound : ℝ) ≤ r := Nat.cast_le.2 (Nat.lt_succ_iff.1 (Nat.cast_lt.1 hlt))
    linarith
  · rw [abs_of_pos (by linarith)] at hv
    have hlt : (r : ℝ) < overflowBound := hlo.trans hv
    have hle : ((r + 1 : ℕ) : ℝ) ≤ overflowBound := Nat.cast_le.2 (Nat.succ_le_of_lt (Nat.cast_lt.1 hlt))
    push_cast at hle
    obtain ⟨hp, hnear⟩ := hfin (by rw [abs_of_pos (by linarith)]; linarith)
    refine ⟨hp, fun c hc => ?_⟩
    by_cases hcp : val c = val p
    · rw [hcp]; exact ⟨le_rfl, fun _ hne => absurd rfl hne⟩
    suffices hcloser : |(val p : ℝ) - v| < |(val c : ℝ) - v| from ⟨hcloser.le, fun heq => absurd heq hcloser.ne⟩
    have hmid := val_add_ne_of_nearest c hr (hnear 0x01000000#32 (by decide)).1
    exact nearer_of_near_half hlo hhi hcp hmid (hnear c hc).1

/-- The radicand of a value that is no zero has a root of more than 24 bits. -/
theorem isqrt_large {m : Nat} (hm : 0 < m) (hlt : m * 2 ^ 149 < 2 ^ 428) : 2 ^ 24 ≤ isqrt (m * 2 ^ 149) := by
  obtain ⟨-, hroot⟩ := isqrt_spec hlt
  by_contra hc
  have hsq : (isqrt (m * 2 ^ 149) + 1) * (isqrt (m * 2 ^ 149) + 1) ≤ 2 ^ 24 * 2 ^ 24 :=
    Nat.mul_le_mul (by omega) (by omega)
  omega

/-- The quotient `sqrtTwice` gives is rounded as the exact root. -/
theorem roundsTo_sqrtTwice {n : Nat} (hlt : n < 2 ^ 428) (hlarge : 2 ^ 24 ≤ isqrt n) :
    RoundsTo (Real.sqrt n) (pack false (roundMag (sqrtTwice n) 2)) := by
  obtain ⟨hlo, hhi⟩ := isqrt_spec hlt
  unfold sqrtTwice
  generalize isqrt n = r at *
  have hpos : ∀ v : ℝ, 0 ≤ v → (false = true ↔ v < 0) := fun v hv => by simp [hv]
  by_cases hsq : r * r = n
  · rw [if_pos hsq, ← hsq, Nat.cast_mul, Real.sqrt_mul_self (Nat.cast_nonneg r)]
    refine roundsTo_pack (by omega) ?_ fun _ => hpos _ (Nat.cast_nonneg r)
    rw [Nat.abs_cast]; push_cast; ring
  · rw [if_neg hsq]
    refine roundsTo_of_half hlarge ?_ ?_ (roundsTo_pack (by omega) ?_ fun _ => hpos _ (by positivity))
    · refine Real.lt_sqrt_of_sq_lt ?_
      rw [sq]; exact_mod_cast lt_of_le_of_ne hlo hsq
    · rw [Real.sqrt_lt' (by positivity), sq]; exact_mod_cast hhi
    · rw [abs_of_pos (by positivity)]; push_cast; ring

theorem fsqrt_zero {a : F32} (h : isZero a = true) : fsqrt a = a := by
  simp [fsqrt, not_nan_of_finite (finite_of_zero h), h]

theorem fsqrt_negative {a : F32} (hz : isZero a = false) (hs : sign a = true) : fsqrt a = Config.canonNaN := by
  simp [fsqrt, hz, hs]

theorem fsqrt_positive {a : F32} (hf : isFinite a = true) (hz : isZero a = false) (hs : sign a = false) :
    fsqrt a = pack false (roundMag (sqrtTwice (mag a * 2 ^ 149)) 2) := by
  simp [fsqrt, not_nan_of_finite hf, not_inf_of_finite hf, hz, hs]

theorem roundsTo_fsqrt {a : F32} (hf : isFinite a = true) (hs : sign a = false) :
    RoundsTo (Real.sqrt ((val a : ℝ) * 2 ^ 149)) (fsqrt a) := by
  cases hz : isZero a
  · have hm : mag a ≠ 0 := by rw [Ne, mag_eq_zero_iff, hz]; exact Bool.false_ne_true
    have hlt : mag a * 2 ^ 149 < 2 ^ 428 := by have := mag_lt hf; omega
    have hval : (val a : ℝ) * 2 ^ 149 = ((mag a * 2 ^ 149 : ℕ) : ℝ) := by
      rw [val, hs, if_neg Bool.false_ne_true]; norm_num
    rw [fsqrt_positive hf hz hs, hval]
    exact roundsTo_sqrtTwice hlt (isqrt_large (Nat.pos_of_ne_zero hm) hlt)
  · rw [fsqrt_zero hz, (val_eq_zero_iff a).2 hz, Int.cast_zero, zero_mul, Real.sqrt_zero, isZero_eq hz]
    exact roundsTo_zero _

/-- Settles O57: the exact root lies at, or strictly between, whole numbers of more than 24 bits. -/
theorem sqrtRoundsCorrectly : Obligations.SqrtRoundsCorrectly :=
  ⟨fun _ hf hs => roundsTo_fsqrt hf hs, fun _ hz => fsqrt_zero hz, by decide⟩

/-! ## NaN results, signs and invalid operations (R15, R16) -/

/-- Settles O58: every result is canonical. -/
theorem naNResultsAreCanonical : Obligations.NaNResultsAreCanonical := by
  intro a b
  refine ⟨fun r hr hn => (canonical_iff r).1 ?_ hn, ?_, fsqrt_nan⟩
  · simp only [List.mem_cons, List.not_mem_nil, or_false] at hr
    rcases hr with rfl | rfl | rfl | rfl | rfl
    · exact canonical_fadd a b
    · exact canonical_fsub a b
    · exact canonical_fmul a b
    · exact canonical_fdiv a b
    · exact canonical_fsqrt a
  · rintro (h | h)
    · exact ⟨fadd_nan_left b h, fsub_nan_left b h, fmul_nan_left b h, fdiv_nan_left b h⟩
    · exact ⟨fadd_nan_right a h, fsub_nan_right a h, fmul_nan_right a h, fdiv_nan_right a h⟩

/-- A product is the canonical NaN, or a magnitude with the exclusive-or of the signs. -/
theorem fmul_cases (a b : F32) :
    fmul a b = Config.canonNaN ∨ ∃ m ≤ 0x7F800000, fmul a b = pack (sign a ^^ sign b) m := by
  unfold fmul
  split
  · exact .inl rfl
  · split
    · split
      · exact .inl rfl
      · exact .inr ⟨_, le_rfl, rfl⟩
    · exact .inr ⟨_, roundMag_le _ _, rfl⟩

/-- A quotient is the canonical NaN, or a magnitude with the exclusive-or of the signs. -/
theorem fdiv_cases (a b : F32) :
    fdiv a b = Config.canonNaN ∨ ∃ m ≤ 0x7F800000, fdiv a b = pack (sign a ^^ sign b) m := by
  unfold fdiv
  split
  · exact .inl rfl
  · split
    · split
      · exact .inl rfl
      · exact .inr ⟨_, le_rfl, rfl⟩
    · split
      · exact .inr ⟨0, Nat.zero_le _, rfl⟩
      · split
        · split
          · exact .inl rfl
          · exact .inr ⟨_, le_rfl, rfl⟩
        · exact .inr ⟨_, roundMag_le _ _, rfl⟩

theorem sign_of_nan_or_pack {r : F32} {b : Bool} (h : r = Config.canonNaN ∨ ∃ m ≤ 0x7F800000, r = pack b m)
    (hn : isNaN r = false) : sign r = b := by
  rcases h with rfl | ⟨m, hm, rfl⟩
  · rw [isNaN_canonNaN] at hn; exact absurd hn.symm Bool.false_ne_true
  · exact pack_sign b (by omega)

theorem fsub_self {x : F32} (h : isFinite x = true) : fsub x x = 0x00000000#32 := by
  rw [fsub, fadd_finite h (by rwa [isFinite_fneg]), addFinite_of_val_eq_zero (by rw [val_fneg, add_neg_cancel]),
    sign_fneg, Bool.and_not_self]
  rfl

/-- Settles O59: one rule per kind of operand; the sign rules hold of every result that is no NaN. -/
theorem zeroSignsAndInvalidOperations : Obligations.ZeroSignsAndInvalidOperations := by
  refine ⟨by decide, fun x h => fsub_self h, fun a b => sign_of_nan_or_pack (fmul_cases a b),
    fun a b => sign_of_nan_or_pack (fdiv_cases a b), fun a b ha hb => ?_, fun a b ha hb => ?_,
    fun a b ha hb => fdiv_inf_inf ha hb, fun a b ha hb => ⟨fun h => ?_, fun h => ?_⟩,
    fun a _ hz hs => fsqrt_negative hz hs, fun a b ha hz hb => ?_, by decide⟩
  · rw [fmul_comm a, fmul_inf_zero hb ha]
    exact ⟨rfl, rfl⟩
  · rw [fdiv_zero_right (finite_of_zero ha) hb, if_pos ha]; rfl
  · rw [fsub, fadd_inf_inf ha (by rwa [isInf_fneg]), sign_fneg, if_neg (by simp [h])]; rfl
  · rw [fadd_inf_inf ha hb, if_neg h]; rfl
  · rw [fdiv_zero_right ha hb, hz, if_neg Bool.false_ne_true, pack_infinity]

/-! ## `fabs` and `fmax` (R14) -/

theorem getLsbD_fabs (a : F32) (n : Nat) : (fabs a).getLsbD n = (a.getLsbD n && decide (n ≠ 31)) := by
  have hmask : (0x7FFFFFFF#32).getLsbD n = (decide (n < 32) && decide (n < 31)) := by
    rw [BitVec.getLsbD_ofNat, show 0x7FFFFFFF = 2 ^ 31 - 1 from rfl, Nat.testBit_two_pow_sub_one]
  rw [fabs, BitVec.getLsbD_and, hmask]
  rcases Nat.lt_or_ge n 32 with hn | hn
  · congr 1
    simp only [hn, decide_true, Bool.true_and, decide_eq_decide]; omega
  · rw [BitVec.getLsbD_of_ge a n hn, Bool.false_and, Bool.false_and]

theorem fmax_eq_ite {a b : F32} (ha : isNaN a = false) (hb : isNaN b = false) :
    fmax a b = if orderKey a < orderKey b then b else a := by simp [fmax, ha, hb]

/-- Every finite value lies between the infinities. -/
theorem orderKey_finite_bounds {a : F32} (h : isFinite a = true) :
    orderKey Config.negInf < orderKey a ∧ orderKey a < orderKey Config.posInf := by
  have hneg : orderKey Config.negInf = -0x7F800000 := by decide
  have hpos : orderKey Config.posInf = 0x7F800000 := by decide
  rw [isFinite_iff] at h
  rw [hneg, hpos, orderKey]
  split <;> omega

/-- The larger of two values the first of which is below the second. -/
theorem fmax_of_lt {a b : F32} (ha : isNaN a = false) (hb : isNaN b = false) (h : orderKey a < orderKey b) :
    fmax a b = b ∧ fmax b a = b := by
  rw [fmax_eq_ite ha hb, fmax_eq_ite hb ha, if_pos h, if_neg h.asymm]
  exact ⟨rfl, rfl⟩

/-- Settles O60: the order key is the numeric order, with the infinities at its ends. -/
theorem fabsAndFmax : Obligations.FabsAndFmax := by
  refine ⟨getLsbD_fabs, fun a b h => fmax_nan_left b h, fun a b ha hb => fmax_nan_right ha hb, fun a b ha hb => ?_,
    fun a h => ?_⟩
  · simp only [fmax_eq_ite (not_nan_of_finite ha) (not_nan_of_finite hb), orderKey_lt_iff]
  · rcases class_cases a with ⟨hf, -, -⟩ | ⟨-, hi, -⟩ | ⟨-, -, hn⟩
    · obtain ⟨hneg, hpos⟩ := orderKey_finite_bounds hf
      obtain ⟨hl, hr⟩ := fmax_of_lt h (by decide) hpos
      obtain ⟨hl', hr'⟩ := fmax_of_lt (by decide) h hneg
      exact ⟨hl, hr, hr', hl'⟩
    · rcases inf_cases hi with rfl | rfl <;> decide
    · rw [hn] at h; exact absurd h.symm Bool.false_ne_true

end Sys2Proof.Float
end

section
/-! The statements on the state (10_state.md): what each command leaves unchanged, what a sample depends on, and the
invariants of the Filter State and of the envelope. -/

namespace Sys2Proof.Safety
open Sys2Proof.Machine

/-! ## The classes of registers -/

/-- The ten coefficient registers, one by one. -/
theorem forall_isCoefficient {p : Reg → Prop} :
    (∀ r, isCoefficient r = true → p r) ↔
      p .alphaA ∧ p .betaA ∧ p .alphaR ∧ p .betaR ∧ p .gainLp ∧ p .minFreq ∧ p .freqBw ∧ p .qc ∧ p .alphaMix ∧
        p .betaMix := by
  refine ⟨fun h => ⟨h _ rfl, h _ rfl, h _ rfl, h _ rfl, h _ rfl, h _ rfl, h _ rfl, h _ rfl, h _ rfl, h _ rfl⟩,
    fun h r hr => ?_⟩
  cases r <;> simp_all [isCoefficient]

/-- The seven datapath registers, one by one. -/
theorem forall_isDatapath {p : Reg → Prop} :
    (∀ r, isDatapath r = true → p r) ↔ p .rel ∧ p .att ∧ p .dly ∧ p .cf ∧ p .hp ∧ p .bp ∧ p .lp := by
  refine ⟨fun h => ⟨h _ rfl, h _ rfl, h _ rfl, h _ rfl, h _ rfl, h _ rfl, h _ rfl⟩, fun h r hr => ?_⟩
  cases r <;> simp_all [isDatapath]

theorem carriesOver_isDatapath {r : Reg} (h : carriesOver r = true) : isDatapath r = true := by
  cases r <;> simp_all [carriesOver, isDatapath]

theorem Agree.symm {c : Reg → Bool} {s t : State} (h : Agree c s t) : Agree c t s := fun r hr => (h r hr).symm

theorem Agree.trans {c : Reg → Bool} {s t u : State} (h : Agree c s t) (h' : Agree c t u) : Agree c s u :=
  fun r hr => (h' r hr).trans (h r hr)

theorem agree_of_readReg_eq {s t : State} (c : Reg → Bool) (h : ∀ r, readReg r t = readReg r s) : Agree c s t :=
  fun r _ => h r

/-- CFG_NONFINITE is computed as 0 exactly where every coefficient is finite. -/
theorem anyNonfinite_eq_false_iff (s : State) :
    anyNonfinite s = false ↔ ∀ r, isCoefficient r = true → Float.isFinite (readReg r s) = true := by
  simp [forall_isCoefficient, anyNonfinite, readReg, and_assoc]

theorem anyNonfinite_eq_of_agree {s t : State} (h : Agree isCoefficient s t) : anyNonfinite t = anyNonfinite s := by
  rw [Bool.eq_iff_iff, ← not_iff_not, Bool.not_eq_true, Bool.not_eq_true, anyNonfinite_eq_false_iff,
    anyNonfinite_eq_false_iff]
  exact forall₂_congr fun r hr => by rw [h r hr]

end Sys2Proof.Safety

namespace Sys2Proof.Machine
open Sys2Proof.Float Sys2Proof.Safety

/-! ## What a command leaves unchanged (R32, R36, R54) -/

/-- A SETP writes a parameter register or STATUS, a PROCESS datapath registers. -/
theorem agree_coefficients_after {i : Instr} (h1 : i ≠ .construct) (h2 : i ≠ .defaults) (s : State) :
    Agree isCoefficient s (after i s) := by
  rw [Agree, forall_isCoefficient]
  cases i with
  | setp idx v => rw [after]; cases paramOfIdx idx <;> simp [readReg]
  | peek idx => rw [after]; cases regOfIdx idx <;> simp [readReg]
  | construct => exact absurd rfl h1
  | defaults => exact absurd rfl h2
  | _ => simp [after, processRegs, readReg]

/-- Settles O28: `exec` answers what `after` gives. -/
theorem coefficientsChangeOnlyByConstruction : Obligations.CoefficientsChangeOnlyByConstruction := by
  intro i s t h h1 h2
  rw [exec_next_iff.1 h]
  exact agree_coefficients_after h1 h2 s

/-- SETP, PEEK and the reserved opcodes write parameter registers, STATUS and RSPQ only. -/
theorem agree_datapath_after {i : Instr} (hp : ∀ x, i ≠ .process x) (h1 : i ≠ .construct) (h2 : i ≠ .defaults)
    (s : State) : Agree isDatapath s (after i s) := by
  rw [Agree, forall_isDatapath]
  cases i with
  | setp idx v => rw [after]; cases paramOfIdx idx <;> simp [readReg]
  | peek idx => rw [after]; cases regOfIdx idx <;> simp [readReg]
  | construct => exact absurd rfl h1
  | defaults => exact absurd rfl h2
  | process x => exact absurd rfl (hp x)
  | _ => simp [after, readReg]

/-- Settles O29: `exec` answers what `after` gives. -/
theorem datapathPersistsBetweenSamples : Obligations.DatapathPersistsBetweenSamples := by
  intro i s t h hp h1 h2
  rw [exec_next_iff.1 h]
  exact agree_datapath_after hp h1 h2 s

theorem readParam_setStatus (p : ParamReg) (b : StickyBit) (s : State) :
    readParam p (setStatus b s) = readParam p s := by cases p <;> simp [readParam]

/-- Settles O27: a SETP writes the register of its own index, and no other command but DEFAULTS writes one. -/
theorem parametersChangeOnlyBySetpOrDefaults : Obligations.ParametersChangeOnlyBySetpOrDefaults := by
  intro i s t p h hne
  rw [exec_next_iff] at h
  subst h
  cases i with
  | setp idx v =>
    rw [after] at hne
    rcases paramOfIdx_cases idx with ⟨p', hp', rfl, -⟩ | ⟨hnone, -⟩
    · rw [hp'] at hne
      by_cases hp : p' = p
      · exact .inl ⟨v, by rw [hp]⟩
      · exact absurd (by rw [readParam_writeParam, if_neg hp]) hne
    · rw [hnone] at hne
      exact absurd (readParam_setStatus p _ s) hne
  | defaults => exact .inr rfl
  | peek idx =>
    rw [after] at hne
    cases hr : regOfIdx idx <;> rw [hr] at hne <;> exact absurd (by cases p <;> simp [readParam]) hne
  | _ => exact absurd (by cases p <;> simp [after, construct, processRegs, readParam]) hne

/-! ## STATUS (R44, R45, R46) -/

/-- The three bits of STATUS. -/
theorem statusWord_bits (s : State) :
    (statusWord s).getLsbD 0 = s.errOp ∧ (statusWord s).getLsbD 1 = s.errIdx ∧
      (statusWord s).getLsbD 2 = s.cfgNonfinite := by
  rw [statusWord]
  cases s.cfgNonfinite <;> cases s.errIdx <;> cases s.errOp <;> decide

/-- Settles O14: an edge without `rst` that accepts no command only takes a response and lets time pass. -/
theorem statusPortsShowStatus : Obligations.StatusPortsShowStatus := by
  refine ⟨fun s => ?_, fun s t h hrst hno => ?_⟩
  · obtain ⟨hop, hidx, hcfg⟩ := statusWord_bits s
    exact ⟨hop.symm, hidx.symm, hcfg.symm⟩
  · rcases step_cases h with ⟨hr, -⟩ | ⟨-, -, -, rfl⟩ | ⟨-, -, hv, hc, -⟩
    · rw [hrst] at hr; exact absurd hr Bool.false_ne_true
    · simp [stErrOp, stErrIdx, stCfgNonfinite]
    · rw [hv, hc] at hno; exact absurd hno.symm Bool.false_ne_true

/-- A construction writes CFG_NONFINITE from the coefficients it leaves. -/
theorem construct_cfgNonfinite (s : State) : (construct s).cfgNonfinite = anyNonfinite (construct s) := rfl

/-- Settles O25: DEFAULTS and CONSTRUCT both end in a construction. -/
theorem cfgNonfiniteReflectsConstruction : Obligations.CfgNonfiniteReflectsConstruction := by
  intro i s t h
  rw [exec_next_iff] at h
  subst h
  refine ⟨fun hi => ?_, fun h1 h2 => after_cfgNonfinite h1 h2 s⟩
  have hcfg : (after i s).cfgNonfinite = anyNonfinite (after i s) := by
    rcases hi with rfl | rfl <;> exact construct_cfgNonfinite _
  rw [hcfg, ← Bool.not_eq_false, anyNonfinite_eq_false_iff]
  push Not
  simp only [ne_eq, Bool.not_eq_true, not_finite_iff]

/-! ## RSPQ (R47, R48) -/

/-- Settles O26, by the responses of each command. -/
theorem oneResponsePerProcessOrPeek : Obligations.OneResponsePerProcessOrPeek := by
  intro i s t h
  rw [exec_next_iff] at h
  subst h
  refine ⟨?_, ?_, fun hx hidx => ?_⟩
  · rintro x rfl; exact ⟨_, after_rspq _ s⟩
  · rintro idx rfl; exact ⟨_, after_rspq _ s⟩
  · rw [after_rspq]
    cases i with
    | process x => exact absurd rfl (hx x)
    | peek idx => exact absurd rfl (hidx idx)
    | _ => exact List.append_nil _

/-- Settles O10: the response transfer removes the front, and the accepted command appends what it emits. -/
theorem responsesFormAQueue : Obligations.ResponsesFormAQueue := by
  intro s t h hrst
  rcases step_cases h with ⟨hr, -⟩ | ⟨-, -, -, rfl⟩ | ⟨-, -, hv, hc, rfl⟩
  · rw [hrst] at hr; exact absurd hr Bool.false_ne_true
  · exact ⟨[], by simp [hrst], by simp, fun h => absurd rfl h⟩
  · rcases after_rspq_cases (decode (nextEdge s).cmdWord) (beginCommand (tick (takeResponse (nextEdge s) s)))
      with hq | ⟨q, -, hq⟩
    · exact ⟨[], by rw [hq]; simp [hrst], by simp, fun h => absurd rfl h⟩
    · exact ⟨[q], by rw [hq]; simp [hrst], by simp, fun _ => ⟨hv, hc⟩⟩

/-- No command writes the implementation parameters. -/
theorem after_impl (i : Instr) (s : State) : (after i s).impl = s.impl := by
  obtain ⟨-, -, -, himpl⟩ := after_outside i s
  exact himpl

/-! ## What a sample depends on (R33, R36, R52, R148) -/

/-- The five stages read the coefficients and the carried registers only, and so does the mixer after them. -/
theorem processRegs_eq_of_agree (x : F32) {s s' : State} (hc : Agree isCoefficient s s')
    (hk : Agree carriesOver s s') :
    Agree isDatapath (processRegs x s) (processRegs x s') ∧
      mixer x (processRegs x s') = mixer x (processRegs x s) := by
  rw [Agree, forall_isCoefficient] at hc
  simp only [readReg] at hc
  have hrel : s'.rel = s.rel := hk .rel rfl
  have hatt : s'.att = s.att := hk .att rfl
  have hdly : s'.dly = s.dly := hk .dly rfl
  have hbp : s'.bp = s.bp := hk .bp rfl
  have hlp : s'.lp = s.lp := hk .lp rfl
  rw [Agree, forall_isDatapath]
  simp [processRegs, readReg, mixer, preLowpassOut, lowpassXh, releaseY1, hc, hrel, hatt, hdly, hbp, hlp]

/-- Settles O45: the response carries the mixer's output. -/
theorem processDependsOnFilterStateOnly : Obligations.ProcessDependsOnFilterStateOnly := by
  intro x s s' t t' hc hk h h'
  rw [exec_next_iff] at h h'
  subst h h'
  obtain ⟨hregs, hmix⟩ := processRegs_eq_of_agree x hc hk
  refine ⟨fun r hr => ?_, mixer x (processRegs x s), after_rspq _ s, ?_⟩
  · simpa [after] using hregs r hr
  · rw [after_rspq, ← hmix]

/-- Settles O46: a SETP leaves the coefficients, the datapath registers, RSPQ and the implementation. -/
theorem stagedParameterHasNoEffectOnProcess : Obligations.StagedParameterHasNoEffectOnProcess := by
  intro idx v x s t u w h hu hw
  have hc : Agree isCoefficient s t := coefficientsChangeOnlyByConstruction _ s t h (by simp) (by simp)
  have hd : Agree isDatapath s t := datapathPersistsBetweenSamples _ s t h (by simp) (by simp) (by simp)
  obtain ⟨hregs, d, hqw, hqu⟩ :=
    processDependsOnFilterStateOnly x s t w u hc (fun r hr => hd r (carriesOver_isDatapath hr)) hw hu
  obtain ⟨-, -, hsame⟩ := oneResponsePerProcessOrPeek _ s t h
  have hq : t.rspq = s.rspq := hsame (by simp) (by simp)
  have himpl : t.impl = s.impl := by rw [exec_next_iff.1 h, after_impl]
  exact ⟨by rw [hqu, hqw, hq, himpl], hregs⟩

end Sys2Proof.Machine
end

section
/-! The invariant of the Filter State (10_state.md R39, R45; 41_process.md R150). -/

namespace Sys2Proof.Float
open Sys2Proof.Safety

/-! ## The sign of the larger value (R39) -/

theorem sign_of_orderKey_pos {a : F32} (h : 0 < orderKey a) : sign a = false := by
  cases hs : sign a
  · rfl
  · simp only [orderKey, hs, if_true] at h; omega

/-- `fmax` of a value without sign and a canonical one is canonical and has no sign: the second has a sign only where
it is the smaller one, and the canonical NaN has none. -/
theorem fmax_unsigned {a b : F32} (ha : sign a = false) (hb : canonical b = true)
    (hnan : isNaN a = true → isNaN b = true) : sign (fmax a b) = false ∧ canonical (fmax a b) = true := by
  cases hna : isNaN a
  · cases hnb : isNaN b
    · rw [fmax_eq_ite hna hnb]
      split
      · next hlt =>
        have ha0 : 0 ≤ orderKey a := (orderKey_nonneg_iff a).2 (by rw [ha]; rfl)
        exact ⟨sign_of_orderKey_pos (ha0.trans_lt hlt), hb⟩
      · exact ⟨ha, canonical_of_not_nan hna⟩
    · rw [fmax_nan_right hna hnb]
      exact ⟨ha, canonical_of_not_nan hna⟩
  · rw [fmax_nan_left b hna]
    refine ⟨?_, hb⟩
    rw [(canonical_iff b).1 hb (hnan hna)]; decide

end Sys2Proof.Float

namespace Sys2Proof.Machine
open Sys2Proof.Float Sys2Proof.Safety

/-! ## The Filter State (R39, R45, R150) -/

/-- Every datapath register holds +0. -/
def DatapathClear (s : State) : Prop := ∀ r, isDatapath r = true → readReg r s = Config.zero

theorem datapathClear_construct (s : State) : DatapathClear (construct s) :=
  forall_isDatapath.2 ⟨rfl, rfl, rfl, rfl, rfl, rfl, rfl⟩

theorem datapathClear_resetBlock (s : State) : DatapathClear (resetBlock s) :=
  forall_isDatapath.2 ⟨rfl, rfl, rfl, rfl, rfl, rfl, rfl⟩

/-- The default coefficients depend on the implementation alone. -/
theorem agree_construct_loadDefaults {s t : State} (h : t.impl = s.impl) :
    Agree isCoefficient (construct (loadDefaults s)) (construct (loadDefaults t)) := by
  rw [Agree, forall_isCoefficient]
  simp [construct, readReg, h]

/-- The SAMPLE responses of a state are canonical. -/
def SamplesCanonical (s : State) : Prop := ∀ q ∈ s.rspq, q.kind = .sample → canonical q.data = true

theorem samplesCanonical_of_filterInv {s : State} (h : FilterInv s) : SamplesCanonical s := by
  obtain ⟨-, -, hq, -⟩ := h
  exact hq

theorem samplesCanonical_takeResponse {s : State} (e : PortEdge) (h : SamplesCanonical s) :
    SamplesCanonical (takeResponse e s) := fun q hq => h q ((takeResponse_rspq_sublist e s).subset hq)

theorem samplesCanonical_tick {s : State} (h : SamplesCanonical s) : SamplesCanonical (tick s) := by
  intro q hq
  obtain ⟨q', hq', rfl⟩ := List.mem_map.1 hq
  exact h q' hq'

/-- The mixer's output is canonical. -/
theorem samplesCanonical_after (i : Instr) {s : State} (h : SamplesCanonical s) : SamplesCanonical (after i s) := by
  intro q hq hkind
  rw [after_rspq, List.mem_append] at hq
  rcases hq with hq | hq
  · exact h q hq hkind
  · cases i with
    | process x => rw [List.mem_singleton.1 hq]; exact canonical_fadd _ _
    | peek idx => rw [List.mem_singleton.1 hq] at hkind; cases hkind
    | _ => cases hq

/-- The invariant's clause on CFG_NONFINITE (R45, R55, R220). -/
def CfgTold (s : State) : Prop :=
  s.cfgNonfinite = anyNonfinite s ∨ s.cfgNonfinite = false ∧ Agree isCoefficient s (construct (loadDefaults s))

theorem cfgTold_of_agree {s t : State} (h : CfgTold s) (hcfg : t.cfgNonfinite = s.cfgNonfinite)
    (hc : Agree isCoefficient s t) (himpl : t.impl = s.impl) : CfgTold t := by
  rcases h with h | ⟨hfalse, hdefault⟩
  · exact .inl (by rw [hcfg, h, anyNonfinite_eq_of_agree hc])
  · exact .inr ⟨hcfg.trans hfalse, hc.symm.trans (hdefault.trans (agree_construct_loadDefaults himpl))⟩

/-- What leaves the coefficients, the datapath registers, CFG_NONFINITE and the implementation keeps the invariant. -/
theorem filterInv_of_agree {s t : State} (h : FilterInv s) (hc : Agree isCoefficient s t) (hd : Agree isDatapath s t)
    (hcfg : t.cfgNonfinite = s.cfgNonfinite) (himpl : t.impl = s.impl) (hq : SamplesCanonical t) : FilterInv t := by
  obtain ⟨hsign, hcan, -, htold⟩ := h
  refine ⟨?_, fun r hr => by rw [hd r hr]; exact hcan r hr, hq, cfgTold_of_agree htold hcfg hc himpl⟩
  have hrel : t.rel = s.rel := hd .rel rfl
  rw [hrel]; exact hsign

/-- What leaves every register and the implementation, and adds no SAMPLE, keeps it. -/
theorem filterInv_tick_takeResponse {s : State} (e : PortEdge) (h : FilterInv s) : FilterInv (tick (takeResponse e s)) :=
  filterInv_of_agree h (agree_of_readReg_eq _ (by simp)) (agree_of_readReg_eq _ (by simp)) (by simp) (by simp)
    (samplesCanonical_tick (samplesCanonical_takeResponse e (samplesCanonical_of_filterInv h)))

theorem filterInv_beginCommand {s : State} (h : FilterInv s) : FilterInv (beginCommand s) :=
  filterInv_of_agree h (agree_of_readReg_eq _ (by simp)) (agree_of_readReg_eq _ (by simp)) rfl rfl (samplesCanonical_of_filterInv h)

/-- The invariant where the datapath is clear. -/
theorem filterInv_of_datapathClear {s : State} (hd : DatapathClear s) (hq : SamplesCanonical s) (hcfg : CfgTold s) :
    FilterInv s := by
  have hrel : s.rel = Config.zero := hd .rel rfl
  refine ⟨by rw [hrel]; decide, fun r hr => ?_, hq, hcfg⟩
  rw [hd r hr]; decide

theorem filterInv_construct {s : State} (hq : SamplesCanonical s) : FilterInv (construct s) :=
  filterInv_of_datapathClear (datapathClear_construct s) hq (.inl (construct_cfgNonfinite s))

theorem filterInv_resetBlock (s : State) : FilterInv (resetBlock s) :=
  filterInv_of_datapathClear (datapathClear_resetBlock s) (by simp [SamplesCanonical]) (.inr ⟨rfl, agree_resetBlock s⟩)

/-- The level detector's REL (R39). -/
theorem rel_processRegs (x : F32) (s : State) :
    sign (processRegs x s).rel = false ∧ canonical (processRegs x s).rel = true := by
  have hrel : (processRegs x s).rel = fmax (fabs x) (releaseY1 (fabs x) s) := by simp [processRegs]
  rw [hrel]
  refine fmax_unsigned (sign_fabs x) (canonical_fadd _ _) fun hx => ?_
  rw [releaseY1, fmul_nan_right _ hx, fadd_nan_right _ isNaN_canonNaN, isNaN_canonNaN]

/-- REL is covered above, and every other register PROCESS writes is a sum or a difference. -/
theorem filterInv_process (x : F32) {s : State} (h : FilterInv s) : FilterInv (after (.process x) s) := by
  obtain ⟨-, -, hq, htold⟩ := h
  obtain ⟨hsign, hcan⟩ := rel_processRegs x s
  refine ⟨hsign, ?_, samplesCanonical_after _ hq, cfgTold_of_agree htold
    (after_cfgNonfinite (by simp) (by simp) s)
    (agree_coefficients_after (by simp) (by simp) s) (after_impl _ s)⟩
  rw [forall_isDatapath]
  exact ⟨hcan, canonical_fadd _ _, canonical_fsub _ _, canonical_fadd _ _, canonical_fsub _ _, canonical_fadd _ _,
    canonical_fadd _ _⟩

theorem filterInv_after (i : Instr) {s : State} (h : FilterInv s) : FilterInv (after i s) := by
  have hq : SamplesCanonical s := samplesCanonical_of_filterInv h
  have hframe : (∀ x, i ≠ .process x) → i ≠ .construct → i ≠ .defaults → FilterInv (after i s) := fun hp h1 h2 =>
    filterInv_of_agree h (agree_coefficients_after h1 h2 s) (agree_datapath_after hp h1 h2 s)
      (after_cfgNonfinite h1 h2 s) (after_impl i s) (samplesCanonical_after i hq)
  cases i with
  | process x => exact filterInv_process x h
  | construct => exact filterInv_construct hq
  | defaults => exact filterInv_construct (s := loadDefaults s) hq
  | _ => exact hframe (by simp) (by simp) (by simp)

/-- Settles O20: a reset and a construction establish the invariant, a PROCESS computes canonical values, and nothing
else writes what it speaks of. -/
theorem stepKeepsFilterInv : Obligations.StepKeepsFilterInv := by
  intro s t h hstep
  rcases step_cases hstep with ⟨-, rfl⟩ | ⟨-, -, -, rfl⟩ | ⟨-, -, -, -, rfl⟩
  · exact filterInv_resetBlock _
  · exact filterInv_tick_takeResponse _ h
  · exact filterInv_after _ (filterInv_beginCommand (filterInv_tick_takeResponse _ h))

end Sys2Proof.Machine
end

section
/-! The invariant of the envelope (10_state.md R34, R53), and the invariants at reset (R55). -/

namespace Sys2Proof.Float
open Sys2Proof.Safety

/-! ## Values that are not negative -/

theorem val_nonneg_iff (a : F32) : 0 ≤ val a ↔ 0 ≤ orderKey a := (orderKey_le_iff (a := Config.zero)).symm

/-- A value that is not negative has a sign only where it is −0. -/
theorem mag_eq_zero_of_sign {a : F32} (h : 0 ≤ orderKey a) (hs : sign a = true) : mag a = 0 := by
  rw [orderKey_nonneg_iff, hs, Bool.true_and, Bool.not_eq_false'] at h
  exact (mag_eq_zero_iff a).2 h

theorem finite_of_orderKey_le {a b : F32} (ha : 0 ≤ orderKey a) (hab : orderKey a ≤ orderKey b)
    (hb : isFinite b = true) : isFinite a = true := by
  have hlow : ((a.toNat % 2 ^ 31 : Nat) : Int) ≤ orderKey a := by
    cases hs : sign a <;> simp only [orderKey, hs, Bool.false_eq_true, if_false, if_true] at ha ⊢ <;> omega
  have hupp : orderKey b ≤ (b.toNat % 2 ^ 31 : Nat) := by unfold orderKey; split <;> omega
  rw [isFinite_iff] at hb ⊢
  omega

theorem orderKey_of_nonneg {a : F32} (hf : isFinite a = true) (h : 0 ≤ orderKey a) :
    orderKey a = roundMag (mag a) 1 := by
  rw [orderKey_val hf, roundKey, if_neg (not_lt.2 ((val_nonneg_iff a).2 h)), natAbs_val]

/-- The sign of a product of values that are not negative is set only where the product is zero. -/
theorem orderKey_fmul_of_nonneg {a b : F32} (hfa : isFinite a = true) (hfb : isFinite b = true)
    (ha : 0 ≤ orderKey a) (hb : 0 ≤ orderKey b) : orderKey (fmul a b) = roundMag (mag a * mag b) (2 ^ 149) := by
  have hle := roundMag_le (mag a * mag b) (2 ^ 149)
  rw [fmul_finite hfa hfb, orderKey_pack _ (by omega)]
  split
  · next hs =>
    have hzero : mag a * mag b = 0 := by
      cases hsa : sign a
      · rw [hsa, Bool.false_xor] at hs
        rw [mag_eq_zero_of_sign hb hs, mul_zero]
      · rw [mag_eq_zero_of_sign ha hsa, zero_mul]
    rw [hzero, roundMag_zero (by positivity)]; rfl
  · rfl

/-! ## Sums that are not rounded -/

theorem val_pack (b : Bool) {m : Nat} (h : m < 2 ^ 31) : val (pack b m) = if b then -(lowMag m : Int) else lowMag m := by
  rw [val, pack_sign b h, mag_pack b h]

/-- A whole multiple of a quantum that has at most 24 bits in it is not rounded. -/
theorem roundMag_exact {n e : Nat} (hdvd : 2 ^ e ∣ n) (hlt : n < 2 ^ 24 * 2 ^ e) (he : e ≤ 252) :
    roundMag n 1 < 0x7F800000 ∧ lowMag (roundMag n 1) = n := by
  obtain ⟨hu, hl⟩ := significand_bounds n 1
  obtain ⟨-, hq⟩ := quantum_spec n
  rw [roundMag]
  rw [Nat.div_one, one_mul] at hu hl ⊢
  have hle : quantum n ≤ e := by
    by_contra hc
    have hpow : 2 ^ (e + 1) ≤ 2 ^ quantum n := Nat.pow_le_pow_right (by omega) (by omega)
    have hq := hq (by omega)
    rw [pow_succ] at hpow
    omega
  generalize quantum n = q at *
  obtain ⟨k, rfl⟩ := exists_eq_mul_left_of_dvd ((pow_dvd_pow 2 hle).trans hdvd)
  rw [roundNat_mul k (by positivity)] at hu hl ⊢
  rw [Nat.min_eq_left (by omega)]
  exact ⟨by omega, lowMag_add hu hl⟩

theorem val_fadd_exact {a b : F32} {e : Nat} (ha : isFinite a = true) (hb : isFinite b = true)
    (hdvd : 2 ^ e ∣ (val a + val b).natAbs) (hlt : (val a + val b).natAbs < 2 ^ 24 * 2 ^ e) (he : e ≤ 252) :
    isFinite (fadd a b) = true ∧ val (fadd a b) = val a + val b := by
  rw [fadd_finite ha hb]
  by_cases h : val a + val b = 0
  · rw [addFinite_of_val_eq_zero h, h]
    exact ⟨isFinite_pack (by omega), (val_eq_zero_iff _).2 (isZero_pack _)⟩
  · obtain ⟨hfin, hmag⟩ := roundMag_exact hdvd hlt he
    rw [addFinite_of_val_ne_zero h, val_pack _ (by omega), hmag]
    refine ⟨isFinite_pack hfin, ?_⟩
    simp only [decide_eq_true_eq]
    split <;> omega

/-! ## Numbers from 0 to 1 -/

theorem inUnit_iff (a : F32) : inUnit a = true ↔ 0 ≤ orderKey a ∧ orderKey a ≤ orderKey Config.one := by
  simp only [inUnit, Bool.and_eq_true, Bool.not_eq_true', decide_eq_true_eq]
  refine ⟨fun ⟨⟨_, h0⟩, h1⟩ => ⟨h0, h1⟩, fun ⟨h0, h1⟩ => ⟨⟨?_, h0⟩, h1⟩⟩
  exact not_nan_of_finite (finite_of_orderKey_le h0 h1 (by decide))

theorem finite_of_inUnit {a : F32} (h : inUnit a = true) : isFinite a = true := by
  obtain ⟨h0, h1⟩ := (inUnit_iff a).1 h
  exact finite_of_orderKey_le h0 h1 (by decide)

theorem inUpperHalf_iff (a : F32) :
    inUpperHalf a = true ↔ inUnit a = true ∧ orderKey Config.half ≤ orderKey a := by
  rw [inUpperHalf, Bool.and_eq_true, decide_eq_true_eq]

/-- A product with a number from 0 to 1 lies between 0 and the other factor. -/
theorem orderKey_fmul_inUnit {a u : F32} (hf : isFinite a = true) (ha : 0 ≤ orderKey a) (hu : inUnit u = true) :
    0 ≤ orderKey (fmul a u) ∧ orderKey (fmul a u) ≤ orderKey a := by
  obtain ⟨hu0, hu1⟩ := (inUnit_iff u).1 hu
  have hone : mag u ≤ 2 ^ 149 := by
    have hval := orderKey_le_iff.1 hu1
    rw [show val Config.one = 2 ^ 149 by decide] at hval
    have := natAbs_val u
    have := (val_nonneg_iff u).2 hu0
    omega
  rw [orderKey_fmul_of_nonneg hf (finite_of_inUnit hu) ha hu0, orderKey_of_nonneg hf ha]
  refine ⟨Int.natCast_nonneg _, Int.ofNat_le.2 (roundMag_mono (by positivity) (by omega) ?_)⟩
  rw [mul_one]; exact Nat.mul_le_mul_left _ hone

/-- The magnitude of a number from 0.5 to 1 is at most 2^24 quanta of 2^125 units. -/
theorem mag_of_inUpperHalf {a : F32} (h : inUpperHalf a = true) :
    sign a = false ∧ ∃ k ≤ 2 ^ 24, mag a = k * 2 ^ 125 := by
  obtain ⟨hu, hlo⟩ := (inUpperHalf_iff a).1 h
  obtain ⟨-, hhi⟩ := (inUnit_iff a).1 hu
  rw [show orderKey Config.half = 0x3F000000 by decide] at hlo
  rw [show orderKey Config.one = 0x3F800000 by decide] at hhi
  have hs : sign a = false := sign_of_orderKey_pos (by omega)
  rw [orderKey, hs, if_neg Bool.false_ne_true] at hlo hhi
  refine ⟨hs, a.toNat % 2 ^ 31 - 125 * 2 ^ 23, by omega, ?_⟩
  have hadd := lowMag_add (e := 125) (r := a.toNat % 2 ^ 31 - 125 * 2 ^ 23) (by omega) (by omega)
  rwa [show 125 * 2 ^ 23 + (a.toNat % 2 ^ 31 - 125 * 2 ^ 23) = a.toNat % 2 ^ 31 by omega, ← mag_eq_lowMag] at hadd

/-- The complement of a number from 0.5 to 1 is exact. -/
theorem val_complement {a : F32} (h : inUpperHalf a = true) :
    isFinite (fsub Config.one a) = true ∧ val (fsub Config.one a) = val Config.one - val a := by
  obtain ⟨hu, hlo⟩ := (inUpperHalf_iff a).1 h
  obtain ⟨hs, k, hk, hmag⟩ := mag_of_inUpperHalf h
  have hone : val Config.one = 2 ^ 149 := by decide
  have hval : val a = (k : Int) * 2 ^ 125 := by rw [val, hs, if_neg Bool.false_ne_true, hmag]; push_cast; ring
  have hsum : (val Config.one + val (fneg a)).natAbs = (2 ^ 24 - k) * 2 ^ 125 := by
    rw [val_fneg, hone, hval]; omega
  have hpos : 0 < k := by
    rcases Nat.eq_zero_or_pos k with rfl | hk
    · rw [orderKey_le_iff, hval] at hlo
      exact absurd hlo (by decide)
    · exact hk
  rw [fsub, sub_eq_add_neg, ← val_fneg]
  refine val_fadd_exact (e := 125) (by decide) (by rw [isFinite_fneg]; exact finite_of_inUnit hu) ?_ ?_ (by omega)
  · rw [hsum]; exact Dvd.intro_left _ rfl
  · rw [hsum]; omega

theorem complement_nonneg {a : F32} (h : inUpperHalf a = true) : 0 ≤ orderKey (fsub Config.one a) := by
  obtain ⟨hu, -⟩ := (inUpperHalf_iff a).1 h
  obtain ⟨-, h1⟩ := (inUnit_iff a).1 hu
  obtain ⟨-, hval⟩ := val_complement h
  rw [← val_nonneg_iff, hval]
  exact sub_nonneg.2 (orderKey_le_iff.1 h1)

theorem orderKey_add_complement {a : F32} (h : inUpperHalf a = true) :
    orderKey (fadd a (fsub Config.one a)) = orderKey Config.one := by
  obtain ⟨hu, -⟩ := (inUpperHalf_iff a).1 h
  obtain ⟨hfin, hval⟩ := val_complement h
  rw [orderKey_fadd (finite_of_inUnit hu) hfin, hval, add_sub_cancel, ← orderKey_val (by decide)]

/-- One stage of the level detector: the mean of two numbers from 0 to 1, with weights from 0.5 to 1 and its
complement, is a number from 0 to 1, since each product is at most its weight and the weights sum to 1 exactly. -/
theorem inUnit_blend {a u v : F32} (ha : inUpperHalf a = true) (hu : inUnit u = true) (hv : inUnit v = true) :
    inUnit (fadd (fmul a u) (fmul (fsub Config.one a) v)) = true := by
  obtain ⟨haunit, -⟩ := (inUpperHalf_iff a).1 ha
  obtain ⟨ha0, -⟩ := (inUnit_iff a).1 haunit
  have hfa : isFinite a = true := finite_of_inUnit haunit
  obtain ⟨hfb, -⟩ := val_complement ha
  obtain ⟨hp0, hp1⟩ := orderKey_fmul_inUnit hfa ha0 hu
  obtain ⟨hq0, hq1⟩ := orderKey_fmul_inUnit hfb (complement_nonneg ha) hv
  have hfp := finite_of_orderKey_le hp0 hp1 hfa
  have hfq := finite_of_orderKey_le hq0 hq1 hfb
  rw [inUnit_iff]
  constructor
  · exact orderKey_fadd_mono (a := Config.zero) (b := Config.zero) (by decide) (by decide) hfp hfq hp0 hq0
  · rw [← orderKey_add_complement ha]
    exact orderKey_fadd_mono hfp hfq hfa hfb hp1 hq1

theorem not_nan_fadd {a b : F32} (ha : isFinite a = true) (hb : isFinite b = true) : isNaN (fadd a b) = false := by
  rw [fadd_finite ha hb, addFinite]
  split
  · exact isNaN_pack (by omega)
  · exact isNaN_pack (roundMag_le _ _)

/-- The mapper's sweep (R143): from its base to its base and the whole bandwidth. -/
theorem sweep_bounds {u w m : F32} (hu : inUnit u = true) (hfw : isFinite w = true) (hw : 0 ≤ orderKey w)
    (hfm : isFinite m = true) :
    isNaN (fadd (fmul u w) m) = false ∧ orderKey m ≤ orderKey (fadd (fmul u w) m) ∧
      orderKey (fadd (fmul u w) m) ≤ orderKey (fadd w m) := by
  rw [fmul_comm]
  obtain ⟨hp0, hp1⟩ := orderKey_fmul_inUnit hfw hw hu
  have hfp := finite_of_orderKey_le hp0 hp1 hfw
  refine ⟨not_nan_fadd hfp hfm, ?_, orderKey_fadd_mono hfp hfm hfw hfm hp1 le_rfl⟩
  have hbase : orderKey (fadd Config.zero m) = orderKey m := by
    rw [orderKey_fadd (by decide) hfm, show val Config.zero = 0 by decide, zero_add, ← orderKey_val hfm]
  rw [← hbase]
  exact orderKey_fadd_mono (by decide) hfm hfp hfm hp0 le_rfl

end Sys2Proof.Float

namespace Sys2Proof.Machine
open Sys2Proof.Float Sys2Proof.Safety

/-! ## The envelope (R34, R53) -/

theorem envelopeInv_of_agree {s t : State} (h : EnvelopeInv s) (hc : Agree isCoefficient s t)
    (hd : Agree isDatapath s t) : EnvelopeInv t := by
  rw [Agree, forall_isCoefficient] at hc
  rw [Agree, forall_isDatapath] at hd
  simp only [readReg] at hc hd
  simpa [EnvelopeInv, hc, hd] using h

/-- The invariant where the datapath is clear. -/
theorem envelopeInv_of_datapathClear {s : State} (hd : DatapathClear s)
    (hA : s.betaA = fsub Config.one s.alphaA) (hR : s.betaR = fsub Config.one s.alphaR) : EnvelopeInv s := by
  have hrel : s.rel = Config.zero := hd .rel rfl
  have hatt : s.att = Config.zero := hd .att rfl
  exact ⟨hA, hR, fun _ _ => by rw [hrel, hatt]; decide⟩

theorem envelopeInv_construct (s : State) : EnvelopeInv (construct s) :=
  envelopeInv_of_datapathClear (datapathClear_construct s) rfl rfl

theorem envelopeInv_resetBlock (s : State) : EnvelopeInv (resetBlock s) :=
  envelopeInv_of_datapathClear (datapathClear_resetBlock s) rfl rfl

theorem envelopeInv_tick_takeResponse {s : State} (e : PortEdge) (h : EnvelopeInv s) :
    EnvelopeInv (tick (takeResponse e s)) :=
  envelopeInv_of_agree h (agree_of_readReg_eq _ (by simp)) (agree_of_readReg_eq _ (by simp))

theorem envelopeInv_beginCommand {s : State} (h : EnvelopeInv s) : EnvelopeInv (beginCommand s) :=
  envelopeInv_of_agree h (agree_of_readReg_eq _ (by simp)) (agree_of_readReg_eq _ (by simp))

/-- The level detector keeps REL and ATT in [0, 1] (R142). -/
theorem inUnit_levelDetector {xa : F32} {s : State} (h : EnvelopeInv s) (hx : inUnit xa = true)
    (hA : inUpperHalf s.alphaA = true) (hR : inUpperHalf s.alphaR = true) :
    inUnit (levelDetector xa s).rel = true ∧ inUnit (levelDetector xa s).att = true := by
  obtain ⟨hbA, hbR, hunit⟩ := h
  obtain ⟨hrel, hatt⟩ := hunit hA hR
  have hy : inUnit (releaseY1 xa s) = true := by rw [releaseY1, hbR]; exact inUnit_blend hR hrel hx
  have hrel' : inUnit (fmax xa (releaseY1 xa s)) = true := by
    rcases fmax_cases xa (releaseY1 xa s) with he | he <;> rw [he]
    · exact hx
    · exact hy
  rw [levelDetector_rel, levelDetector_att, hbA]
  exact ⟨hrel', inUnit_blend hA hatt hrel'⟩

theorem envelopeInv_process {x : F32} {s : State} (h : EnvelopeInv s) (hx : inUnit (fabs x) = true) :
    EnvelopeInv (after (.process x) s) := by
  have hunit := inUnit_levelDetector h hx
  obtain ⟨hA, hR, -⟩ := h
  simpa [EnvelopeInv, after, processRegs, hA, hR] using hunit

/-- A PROCESS maps the new ATT to CF (R143). -/
theorem after_process_cf (x : F32) (s : State) :
    (after (.process x) s).cf = fadd (fmul (after (.process x) s).att s.freqBw) s.minFreq := by
  simp [after, processRegs]

theorem envelopeInv_after {i : Instr} {s : State} (h : EnvelopeInv s)
    (hx : ∀ x, i = .process x → inUnit (fabs x) = true) : EnvelopeInv (after i s) := by
  have hframe : (∀ x, i ≠ .process x) → i ≠ .construct → i ≠ .defaults → EnvelopeInv (after i s) := fun hp h1 h2 =>
    envelopeInv_of_agree h (agree_coefficients_after h1 h2 s) (agree_datapath_after hp h1 h2 s)
  cases i with
  | process x => exact envelopeInv_process h (hx x rfl)
  | construct => exact envelopeInv_construct s
  | defaults => exact envelopeInv_construct (loadDefaults s)
  | _ => exact hframe (by simp) (by simp) (by simp)

/-- An edge that accepts a command runs it. -/
theorem eq_after_of_accepts {i : Instr} {s t : State} (h : step s = .next t) (ha : Accepts i s) :
    t = after i (beginCommand (tick (takeResponse (nextEdge s) s))) := by
  obtain ⟨hrst, hv, hc, rfl⟩ := ha
  rcases step_cases h with ⟨hr, -⟩ | ⟨-, -, hno, -⟩ | ⟨-, -, -, -, ht⟩
  · rw [hrst] at hr; exact absurd hr Bool.false_ne_true
  · rw [hv, hc] at hno; exact absurd hno.symm Bool.false_ne_true
  · exact ht

theorem step_keeps_envelopeInv {s t : State} (h : EnvelopeInv s) (hstep : step s = .next t)
    (hx : ∀ x, Accepts (.process x) s → inUnit (fabs x) = true) : EnvelopeInv t := by
  rcases step_cases hstep with ⟨-, rfl⟩ | ⟨-, -, -, rfl⟩ | ⟨hrst, -, hv, hc, rfl⟩
  · exact envelopeInv_resetBlock _
  · exact envelopeInv_tick_takeResponse _ h
  · exact envelopeInv_after (envelopeInv_beginCommand (envelopeInv_tick_takeResponse _ h)) fun x hdec =>
      hx x ⟨hrst, hv, hc, hdec⟩

/-- Settles O53: the blends of the level detector stay in [0, 1], so the mapper stays in its sweep. -/
theorem envelopeStaysInUnitRange : Obligations.EnvelopeStaysInUnitRange := by
  intro s t h hstep hx
  have ht := step_keeps_envelopeInv h hstep hx
  refine ⟨ht, fun x ha hA hR hfm hfw _ hw => ?_⟩
  obtain ⟨-, -, hunit⟩ := ht
  have hrun := eq_after_of_accepts hstep ha
  have hAt : t.alphaA = s.alphaA := by rw [hrun]; simp [after, processRegs]
  have hRt : t.alphaR = s.alphaR := by rw [hrun]; simp [after, processRegs]
  have hcf : t.cf = fadd (fmul t.att s.freqBw) s.minFreq := by rw [hrun, after_process_cf]; simp
  obtain ⟨-, hatt⟩ := hunit (by rwa [hAt]) (by rwa [hRt])
  rw [hcf]
  exact sweep_bounds hatt hfw hw hfm

/-! ## Reset (R55) -/

/-- Settles O18: the table is that of `State.reset`, read register by register. -/
theorem resetValues : Obligations.ResetValues := ⟨rfl, rfl⟩

/-- Settles O19: at reset the datapath is clear, RSPQ is empty and the coefficients are finite. -/
theorem resetMeetsInvariants : Obligations.ResetMeetsInvariants := by
  have hclear : DatapathClear State.reset := forall_isDatapath.2 ⟨rfl, rfl, rfl, rfl, rfl, rfl, rfl⟩
  refine ⟨filterInv_of_datapathClear hclear (fun q hq => absurd hq List.not_mem_nil) (.inl (by decide)), ?_,
    envelopeInv_of_datapathClear hclear (by decide) (by decide)⟩
  simp [ChannelInv, State.reset]

end Sys2Proof.Machine
end

section
/-! The statement on waiting (20_memory.md R76): an edge without `rst` that accepts no command. -/

namespace Sys2Proof.Machine

/-- What an edge without `rst` and without a command transfer leaves of RSPQ (R47, R92). -/
theorem tick_takeResponse_rspq {e : PortEdge} (hrst : e.rst = false) (s : State) :
    (tick (takeResponse e s)).rspq =
      (if rspValid false s && e.rspReady then s.rspq.tail else s.rspq).map Response.tick := by
  rw [tick_rspq, takeResponse_rspq, hrst]

/-- Settles O9: such an edge is a response transfer and the passing of the edge, and neither writes a register. -/
theorem waitingChangesNoRegister : Obligations.WaitingChangesNoRegister := by
  intro s hinit hrst hno
  refine ⟨_, step_quiet hinit hrst hno, fun r => ?registers, ?impl, ?inputs, tick_takeResponse_rspq hrst s⟩
  case registers => rw [readReg_tick, readReg_takeResponse]
  case impl => rw [tick_impl, takeResponse_impl]
  case inputs => rw [tick_inputs, takeResponse_inputs]

end Sys2Proof.Machine
end

section
/-! The encoding's statements on commands and their words (30_encoding.md R91, R96, R99, R102, R103): the decoder read
as a function of the three fields, and what the encoder keeps of a decoded word. -/

namespace Sys2Proof

/-! ## The decoder on the fields of a word -/

/-- The command of an opcode with the operands `idx` and `data`: one row of the table of R96 per opcode. -/
def rowCommand (op : Opcode) (idx : RegIdx) (data : F32) : Instr :=
  match op.toNat with
  | 0 => .nop
  | 1 => .setp idx data
  | 2 => .construct
  | 3 => .defaults
  | 4 => .process data
  | 5 => .peek idx
  | 6 => .reserved110
  | _ => .reserved111

/-- The decoder gives the command of the word's OP with the word's own operands. -/
theorem decode_eq_rowCommand (w : CmdWord) : decode w = rowCommand (opField w) (idxField w) (dataField w) := by
  unfold decode rowCommand; rfl

theorem decode_cmdWord (op : Opcode) (idx : RegIdx) (data : F32) :
    decode (cmdWord op idx data) = rowCommand op idx data := by
  rw [decode_eq_rowCommand, opField_cmdWord, idxField_cmdWord, dataField_cmdWord]

theorem rowCommand_opcode (op : Opcode) (idx : RegIdx) (data : F32) : (rowCommand op idx data).opcode = op := by
  rcases opcode_cases op with rfl | rfl | rfl | rfl | rfl | rfl | rfl | rfl <;> rfl

/-- A word decodes to the command of a row, with its own operands, exactly when it has the row's opcode. -/
theorem decode_eq_rowCommand_iff {w : CmdWord} {op : Opcode} :
    decode w = rowCommand op (idxField w) (dataField w) ↔ opField w = op := by
  rw [decode_eq_rowCommand]
  constructor
  · intro h
    rw [← rowCommand_opcode (opField w) (idxField w) (dataField w), h, rowCommand_opcode]
  · rintro rfl; rfl

/-! ## Decoding and encoding -/

/-- Settles O2: the encoder puts the command's opcode and operands in their fields, and the decoder reads those. -/
theorem decodeInvertsEncode : Obligations.DecodeInvertsEncode := by
  intro i
  cases i with
  | nop => exact decode_cmdWord 0#3 0#5 0#32
  | setp idx data => exact decode_cmdWord 1#3 idx data
  | construct => exact decode_cmdWord 2#3 0#5 0#32
  | defaults => exact decode_cmdWord 3#3 0#5 0#32
  | process x => exact decode_cmdWord 4#3 0#5 x
  | peek idx => exact decode_cmdWord 5#3 idx 0#32
  | reserved110 => exact decode_cmdWord 6#3 0#5 0#32
  | reserved111 => exact decode_cmdWord 7#3 0#5 0#32

theorem encode_injective : Function.Injective encode := Function.LeftInverse.injective decodeInvertsEncode

/-- What the encoder writes into IDX: the index where the opcode's command uses IDX (SETP, PEEK), else 0 (R96, R99). -/
def usedIdx (op : Opcode) (idx : RegIdx) : RegIdx := if op = 0b001#3 ∨ op = 0b101#3 then idx else 0#5

/-- What the encoder writes into DATA: the data where the opcode's command uses DATA (SETP, PROCESS), else 0 (R96,
R99). -/
def usedData (op : Opcode) (data : F32) : F32 := if op = 0b001#3 ∨ op = 0b100#3 then data else 0#32

theorem encode_rowCommand (op : Opcode) (idx : RegIdx) (data : F32) :
    encode (rowCommand op idx data) = cmdWord op (usedIdx op idx) (usedData op data) := by
  rcases opcode_cases op with rfl | rfl | rfl | rfl | rfl | rfl | rfl | rfl <;> rfl

/-- The word of a decoded word keeps OP and the fields its command uses. -/
theorem encode_decode (w : CmdWord) :
    encode (decode w) =
      cmdWord (opField w) (usedIdx (opField w) (idxField w)) (usedData (opField w) (dataField w)) := by
  rw [decode_eq_rowCommand, encode_rowCommand]

/-- Settles O3: the three fields of the word `encode_decode` gives. -/
theorem encodeKeepsUsedFields : Obligations.EncodeKeepsUsedFields := by
  intro w
  rw [encode_decode]
  exact ⟨opField_cmdWord _ _ _, idxField_cmdWord _ _ _, dataField_cmdWord _ _ _⟩

/-- Words that agree on OP and on the fields their command uses are the same command (R99): both encode to one word. -/
theorem decode_eq_of_used_fields_eq {w w' : CmdWord} (hop : opField w = opField w')
    (hidx : opField w = 0b001#3 ∨ opField w = 0b101#3 → idxField w = idxField w')
    (hdata : opField w = 0b001#3 ∨ opField w = 0b100#3 → dataField w = dataField w') : decode w = decode w' := by
  have hi : usedIdx (opField w) (idxField w) = usedIdx (opField w) (idxField w') := ite_congr rfl hidx fun _ => rfl
  have hd : usedData (opField w) (dataField w) = usedData (opField w) (dataField w') := ite_congr rfl hdata fun _ => rfl
  apply encode_injective
  rw [encode_decode, encode_decode, ← hop, hi, hd]

/-- Settles O5: words that differ in unused fields only are one command, and the encoder's unused fields are 0. -/
theorem unusedFieldsAreIgnored : Obligations.UnusedFieldsAreIgnored := by
  refine ⟨fun w w' hop hidx hdata s => ?same, fun i hi => ?noOperand, fun x => idxField_cmdWord _ _ _,
    fun idx => dataField_cmdWord _ _ _⟩
  case same => rw [decode_eq_of_used_fields_eq hop hidx hdata]
  case noOperand =>
    have hword : encode i = cmdWord i.opcode 0#5 0#32 := by
      simp only [List.mem_cons, List.not_mem_nil, or_false] at hi
      rcases hi with rfl | rfl | rfl | rfl | rfl <;> rfl
    rw [hword]
    exact ⟨idxField_cmdWord _ _ _, dataField_cmdWord _ _ _⟩

/-! ## The rows of the opcode table (R102) -/

/-- The mask of every row keeps OP and clears the other fields. -/
theorem and_opMask (w : CmdWord) : w &&& 0xE000000000#40 = cmdWord (opField w) 0#5 0#32 := by
  have hmask : 0xE000000000#40 = BitVec.allOnes 40 <<< 37 := by decide
  rw [hmask, ← BitVec.shiftLeft_ushiftRight]
  apply BitVec.eq_of_toNat_eq
  have := w.isLt
  rw [cmdWord_toNat, opField_toNat, BitVec.toNat_shiftLeft, BitVec.toNat_ushiftRight, Nat.shiftLeft_eq,
    Nat.shiftRight_eq_div_pow, BitVec.toNat_ofNat, BitVec.toNat_ofNat]
  omega

/-- A word matches the row of an opcode exactly when it decodes to that row's command. -/
theorem matches_row_iff (w : CmdWord) (op : Opcode) :
    w &&& 0xE000000000#40 = cmdWord op 0#5 0#32 ↔ decode w = rowCommand op (idxField w) (dataField w) := by
  rw [and_opMask, decode_eq_rowCommand_iff]
  constructor
  · intro h
    rw [← opField_cmdWord (opField w) 0#5 0#32, h, opField_cmdWord]
  · rintro rfl; rfl

/-- Settles O4: the match of a row is the word of its opcode alone, and the masked word is one of the eight. -/
theorem opcodeRowsPartitionWords : Obligations.OpcodeRowsPartitionWords := by
  intro w
  refine ⟨matches_row_iff w 0#3, matches_row_iff w 1#3, matches_row_iff w 2#3, matches_row_iff w 3#3,
    matches_row_iff w 4#3, matches_row_iff w 5#3, matches_row_iff w 6#3, matches_row_iff w 7#3,
    w &&& 0xE000000000#40, ⟨?listed, rfl⟩, fun m ⟨_, hm⟩ => hm.symm⟩
  rw [and_opMask]
  rcases opcode_cases (opField w) with h | h | h | h | h | h | h | h <;> rw [h] <;> decide

/-! ## Words of the spec -/

/-- Settles O1: each word is decoded as it stands. -/
theorem listedWordsDecode : Obligations.ListedWordsDecode := by
  unfold Obligations.ListedWordsDecode; decide

/-- Settles O6: the fields lie beside one another, and the encoder builds each command's word from them. -/
theorem commandWordFormula : Obligations.CommandWordFormula :=
  ⟨cmdWord_toNat, rfl, fun _ _ => rfl, rfl, rfl, fun _ => rfl, fun _ => rfl, rfl, rfl, rfl, rfl, rfl, rfl⟩

end Sys2Proof
end

section
/-! The encoding's statements on the ports (30_encoding.md R92, R94, R95) and on the pseudo-instruction CONFIG
(R105). -/

namespace Sys2Proof.Machine

/-! ## The response offered (R92, R95) -/

/-- `rsp_valid` is high only for a front response that waits no longer. -/
theorem exists_front_of_rspValid {s : State} (h : rspValid false s = true) :
    ∃ q rest, s.rspq = q :: rest ∧ q.wait = 0 := by
  cases hq : s.rspq with
  | nil => simp [rspValid, hq] at h
  | cons q rest => exact ⟨q, rest, rfl, of_decide_eq_true (by rw [← rspValid_cons hq, h])⟩

/-- A front response that waits no longer is offered, as its own word. -/
theorem front_offered {s : State} {q : Response} {rest : List Response} (hq : s.rspq = q :: rest) (hw : q.wait = 0) :
    rspValid false s = true ∧ rspWord false s = some q.word := by
  have hv : rspValid false s = true := by rw [rspValid_cons hq, hw]; rfl
  exact ⟨hv, by rw [rspWord, hv, hq]; rfl⟩

theorem Response.tick_of_wait_zero {q : Response} (h : q.wait = 0) : q.tick = q := by
  obtain ⟨kind, data, wait⟩ := q
  cases h; rfl

/-- Settles O11: the edge leaves a front response that is not taken at the front, with nothing left to wait. -/
theorem offeredResponseIsHeld : Obligations.OfferedResponseIsHeld := by
  refine ⟨fun s q rest hq hw => ?offered, fun s t hstep hrst hvalid hready => ?held⟩
  case offered =>
    obtain ⟨hv, hword⟩ := front_offered hq hw
    exact ⟨hv, q.word, hword, q.kind_word, q.data_word⟩
  case held =>
    obtain ⟨q, rest, hq, hw⟩ := exists_front_of_rspValid hvalid
    obtain ⟨new, hnew, -, -⟩ := responsesFormAQueue s t hstep hrst
    have hfront : t.rspq = q :: (rest.map Response.tick ++ new) := by
      rw [hnew, hready, Bool.and_false, if_neg Bool.false_ne_true, hq, List.map_cons, Response.tick_of_wait_zero hw,
        List.cons_append]
    obtain ⟨-, hwordS⟩ := front_offered hq hw
    obtain ⟨hv, hwordT⟩ := front_offered hfront hw
    exact ⟨hv, hwordT.trans hwordS.symm⟩

/-! ## The command accepted (R92, R94) -/

/-- Settles O7: the step of an edge that accepts a command, as `step_accept` says it. -/
theorem stepRunsAcceptedCommand : Obligations.StepRunsAcceptedCommand := fun _ => step_accept

/-- The table word of a whole command is the number's own word. -/
theorem tableWord_40 (w : Nat) : tableWord 40 w = BitVec.ofNat 40 w :=
  BitVec.eq_of_toNat_eq (by simp [tableWord])

theorem rspFull_offerCommand (w : CmdWord) (s : State) : rspFull (offerCommand w s) = false := by
  unfold rspFull offerCommand widenRoom
  cases s.impl.rspRoomExtra with
  | none => rfl
  | some n => simp

/-- A block that a command is offered to is ready for it. -/
theorem cmdReady_offerCommand (w : CmdWord) (s : State) : cmdReady false (offerCommand w s) = true := by
  rw [cmdReady, rspFull_offerCommand]; rfl

theorem nextEdge_offerCommand (w : CmdWord) (s : State) : nextEdge (offerCommand w s) = offerEdge w := rfl

/-- The host takes no response at the edge at which it offers a command and nothing else. -/
theorem takeResponse_offerEdge (w : CmdWord) (s : State) : takeResponse (offerEdge w) s = s := by
  simp [takeResponse, offerEdge]

/-- Settles O8: the offered command is accepted at the next edge, and no response is taken there. -/
theorem offeredWordRunsNext : Obligations.OfferedWordRunsNext := by
  intro s w
  rw [State.withFetchWord, tableWord_40, step_accept rfl rfl rfl (cmdReady_offerCommand _ s), nextEdge_offerCommand,
    takeResponse_offerEdge]
  rfl

/-! ## Command sequences (R105) -/

/-- A sequence of commands completes, each on the state the one before left (R74). -/
theorem execAll_eq_foldl (cs : List Instr) (s : State) : execAll cs s = .next (cs.foldl (fun t i => after i t) s) := by
  induction cs generalizing s with
  | nil => rfl
  | cons i rest ih => rw [execAll, exec_eq]; exact ih (after i s)

/-- Settles O39: the six SETPs leave the tunables in their registers, and the seventh command is the CONSTRUCT. -/
theorem configRealisesConstruct : Obligations.ConfigRealisesConstruct := by
  intro ta tr fmin fmax q mix s
  exact ⟨_, execAll_eq_foldl _ s, exec_eq .construct _⟩

end Sys2Proof.Machine
end

section
/-! The statements on SETP, CONSTRUCT and DEFAULTS (40_configuration.md R120 to R124). -/

namespace Sys2Proof.Float

/-! ## The root of half a negative value (R123) -/

/-- Every pattern with a sign but −0 and −2^−149 has a magnitude of at least two units. -/
theorem two_le_mag {a : F32} (hs : sign a = true) (hz : isZero a = false) (h1 : a ≠ 0x80000001#32) : 2 ≤ mag a := by
  have hne : mag a ≠ 0 := by rw [Ne, mag_eq_zero_iff, hz]; exact Bool.false_ne_true
  have hne1 : mag a ≠ 1 := by
    intro hm
    have hlow : a.toNat % 2 ^ 31 = 1 := lowMag_inj (by rw [← mag_eq_lowMag, hm]; decide)
    exact h1 (by rw [← pack_eta a, hs, hlow]; decide)
  omega

/-- Half of a magnitude of at least two units does not round to zero. -/
theorem fmul_half_not_zero {a : F32} (hf : isFinite a = true) (h : 2 ≤ mag a) :
    isZero (fmul Config.half a) = false := by
  have hhalf : mag Config.half = 2 ^ 148 := by decide
  have hone : roundMag (lowMag 1 * 1) 1 = 1 := roundMag_lowMag (by omega) (by omega)
  have hle : roundMag (lowMag 1 * 1) 1 ≤ roundMag (mag Config.half * mag a) (2 ^ 149) :=
    roundMag_mono (by omega) (by omega) (by rw [hhalf, show lowMag 1 = 1 from by decide]; omega)
  have hmax := roundMag_le (mag Config.half * mag a) (2 ^ 149)
  rw [fmul_finite (by decide) hf, ← Bool.not_eq_true, isZero_iff, pack_toNat _ (by omega)]
  split <;> omega

/-- GAIN_LP of a negative q (R121): half of it is negative, and rounds to a zero for q = −2^−149 only. -/
theorem fsqrt_half_of_negative {q : F32} (hs : sign q = true) (hn : isNaN q = false) (hz : isZero q = false)
    (h1 : q ≠ 0x80000001#32) : fsqrt (fmul Config.half q) = Config.canonNaN := by
  rcases class_cases q with ⟨hf, -, -⟩ | ⟨-, hi, -⟩ | ⟨-, -, hnan⟩
  · have hmul := roundMag_le (mag Config.half * mag q) (2 ^ 149)
    refine fsqrt_negative (fmul_half_not_zero hf (two_le_mag hs hz h1)) ?_
    rw [fmul_finite (by decide) hf, pack_sign _ (by omega), hs]
    decide
  · rw [isInf_eq hi, hs]; decide
  · rw [hn] at hnan; exact absurd hnan Bool.false_ne_true

end Sys2Proof.Float

namespace Sys2Proof.Machine
open Sys2Proof.Float Sys2Proof.Safety

/-! ## SETP (R120) -/

/-- A SETP of a parameter register's own index writes that register. -/
theorem exec_setp_idxOfParam (p : ParamReg) (v : F32) (s : State) :
    exec (.setp (idxOfParam p) v) s = .next (writeParam p v s) := by
  rw [exec, execSetp, paramOfIdx_idxOfParam]

/-- A SETP of any other index sets ERR_IDX. -/
theorem exec_setp_of_bad_index {idx : RegIdx} (h : 6 ≤ idx.toNat) (v : F32) (s : State) :
    exec (.setp idx v) s = .next (setStatus .errIdx s) := by
  rcases paramOfIdx_cases idx with ⟨-, -, -, hle⟩ | ⟨hnone, -⟩
  · omega
  · rw [exec, execSetp, hnone]

/-- Settles O35: the six indices that name a parameter register, and the others. -/
theorem setpWritesOneParameter : Obligations.SetpWritesOneParameter :=
  ⟨fun v s => ⟨exec_setp_idxOfParam .tauA v s, exec_setp_idxOfParam .tauR v s, exec_setp_idxOfParam .minF v s,
      exec_setp_idxOfParam .maxF v s, exec_setp_idxOfParam .q v s, exec_setp_idxOfParam .mix v s⟩,
    fun _ v s h => exec_setp_of_bad_index h v s, fun _ => (decode_eq_rowCommand_iff (op := 1#3)).2, by decide⟩

/-! ## What a construction depends on (R121, R122) -/

theorem alphaOf_congr {p p' : ImplParams} (h : p'.expPoints = p.expPoints) (tau : F32) :
    alphaOf p' tau = alphaOf p tau := by rw [alphaOf, alphaOf, expF, expF, h]

/-- A construction is a function of the parameter registers and `ExpF`, but for the fields it does not write. -/
theorem construct_eq_of_params {s s' : State} (hp : ∀ p, readParam p s' = readParam p s)
    (hx : s'.impl.expPoints = s.impl.expPoints) :
    construct s' = { construct s with
      errOp := s'.errOp, errIdx := s'.errIdx, rspq := s'.rspq, busy := s'.busy
      initialised := s'.initialised, inputs := s'.inputs, impl := s'.impl } := by
  have hTauA : s'.pTauA = s.pTauA := hp .tauA
  have hTauR : s'.pTauR = s.pTauR := hp .tauR
  have hMinF : s'.pMinF = s.pMinF := hp .minF
  have hMaxF : s'.pMaxF = s.pMaxF := hp .maxF
  have hQ : s'.pQ = s.pQ := hp .q
  have hMix : s'.pMix = s.pMix := hp .mix
  simp only [construct, updateCfgNonfinite, anyNonfinite, clearDatapath, deriveFilter, deriveTimeConstants,
    alphaOf_congr hx, hTauA, hTauR, hMinF, hMaxF, hQ, hMix]

/-- Settles O37: the fields a construction does not write are no coefficient, no datapath register and not
CFG_NONFINITE. -/
theorem constructForgetsFilterState : Obligations.ConstructForgetsFilterState := by
  intro s s' t t' hp hx h h'
  rw [exec_next_iff] at h h'
  subst h h'
  rw [after, after, construct_eq_of_params hp hx]
  exact ⟨forall_isCoefficient.2 ⟨rfl, rfl, rfl, rfl, rfl, rfl, rfl, rfl, rfl, rfl⟩,
    forall_isDatapath.2 ⟨rfl, rfl, rfl, rfl, rfl, rfl, rfl⟩, rfl⟩

/-! ## The default construction (R55, R124) -/

/-- The reset state is the reference default construction of itself: the values of R55, computed. -/
theorem construct_loadDefaults_reset : construct (loadDefaults State.reset) = State.reset := by decide +kernel

/-- With the reference `ExpF` the default construction leaves what a reset leaves, but for the fields it does not
write. -/
theorem construct_loadDefaults_reference {s : State} (h : s.impl.expPoints = []) :
    construct (loadDefaults s) = { State.reset with
      errOp := s.errOp, errIdx := s.errIdx, rspq := s.rspq, busy := s.busy, initialised := s.initialised
      inputs := s.inputs, impl := s.impl } := by
  have hparams (p) : readParam p (loadDefaults s) = readParam p (loadDefaults State.reset) := by cases p <;> rfl
  rw [construct_eq_of_params hparams h, construct_loadDefaults_reset]
  rfl

/-- A second default construction computes the same values from the same parameters. -/
theorem construct_loadDefaults_idem (s : State) :
    construct (loadDefaults (construct (loadDefaults s))) = construct (loadDefaults s) := by
  have hparams (p) : readParam p (loadDefaults (construct (loadDefaults s))) = readParam p (loadDefaults s) := by
    cases p <;> rfl
  rw [construct_eq_of_params hparams rfl]
  rfl

/-- Settles O38: DEFAULTS is the default construction. -/
theorem defaultsIsADefaultConstruction : Obligations.DefaultsIsADefaultConstruction := by
  refine ⟨fun s => ⟨_, exec_eq _ s, exec_eq _ _⟩, fun s t h => ?idempotent,
    fun _ => (decode_eq_rowCommand_iff (op := 3#3)).2, fun s h => ?reset⟩
  case idempotent =>
    rw [exec_next_iff] at h ⊢
    subst h
    exact (construct_loadDefaults_idem s).symm
  case reset => rw [exec_eq, after, construct_loadDefaults_reference h]

/-! ## The coefficients (R121) -/

/-- CFG_NONFINITE is computed as 1 exactly where some coefficient is a NaN or an infinity (R45). -/
theorem anyNonfinite_eq_decide (s : State) :
    anyNonfinite s = decide (∃ a ∈ [s.alphaA, s.betaA, s.alphaR, s.betaR, s.gainLp, s.minFreq, s.freqBw, s.qc,
      s.alphaMix, s.betaMix], isNaN a = true ∨ isInf a = true) := by
  rw [Bool.eq_iff_iff]
  simp [anyNonfinite, ← not_finite_iff, or_assoc]

/-- Settles O36: the values of the rule are those of the model, and its example is the reset state's. -/
theorem constructDerivesCoefficients : Obligations.ConstructDerivesCoefficients := by
  refine ⟨fun s => ⟨construct s, exec_eq _ s, ?rule⟩, fun _ => (decode_eq_rowCommand_iff (op := 2#3)).2,
    fun s h => ⟨construct (loadDefaults s), exec_eq _ _, ?values⟩⟩
  case rule =>
    rw [← anyNonfinite_eq_decide]
    rfl
  case values =>
    rw [construct_loadDefaults_reference h]
    exact ⟨rfl, rfl, rfl, rfl, rfl, rfl, rfl, rfl, rfl, rfl, rfl⟩

/-! ## Degenerate parameters (R123) -/

/-- A coefficient that is a NaN or an infinity sets CFG_NONFINITE. -/
theorem construct_cfgNonfinite_of_not_finite {s : State} {r : Reg} (hr : isCoefficient r = true)
    (h : isFinite (readReg r (construct s)) = false) : (construct s).cfgNonfinite = true := by
  rw [construct_cfgNonfinite, ← Bool.not_eq_false, anyNonfinite_eq_false_iff]
  intro hall
  rw [hall r hr] at h
  exact absurd h.symm Bool.false_ne_true

/-- −1 / +0 is −∞, at which `ExpF` is +0 (R21). -/
theorem alphaOf_posZero (p : ImplParams) : alphaOf p 0x00000000#32 = Config.zero := by
  have hquot : fdiv Config.negOne (fmul 0x00000000#32 Config.fsHz) = Config.negInf := by decide
  obtain ⟨-, hexp, -⟩ := expFHasItsProperties p
  rw [alphaOf, hquot, hexp]

/-- −1 / −0 is +∞, at which `ExpF` is +∞. -/
theorem alphaOf_negZero (p : ImplParams) : alphaOf p 0x80000000#32 = Config.posInf := by
  have hquot : fdiv Config.negOne (fmul 0x80000000#32 Config.fsHz) = Config.posInf := by decide
  obtain ⟨-, -, hexp, -⟩ := expFHasItsProperties p
  rw [alphaOf, hquot, hexp]

/-- −1 / +∞ is −0, at which `ExpF` is 1. -/
theorem alphaOf_posInf (p : ImplParams) : alphaOf p 0x7F800000#32 = Config.one := by
  have hquot : fdiv Config.negOne (fmul 0x7F800000#32 Config.fsHz) = 0x80000000#32 := by decide
  obtain ⟨-, -, -, -, hexp, -⟩ := expFHasItsProperties p
  rw [alphaOf, hquot, hexp]

theorem isNaN_alphaOf (p : ImplParams) {tau : F32} (h : isNaN tau = true) : isNaN (alphaOf p tau) = true := by
  obtain ⟨hexp, -⟩ := expFHasItsProperties p
  rw [alphaOf, fmul_nan_left _ h, fdiv_nan_right _ isNaN_canonNaN]
  exact hexp _ isNaN_canonNaN

/-- The rows of R123 about one time constant, the attack's or the release's: its ALPHA, its BETA, and CFG_NONFINITE
where the ALPHA is not finite. -/
theorem degenerate_timeConstant {p : ImplParams} {tau alpha beta : F32} {cfg : Bool} (halpha : alpha = alphaOf p tau)
    (hbeta : beta = fsub Config.one alpha) (hcfg : isFinite alpha = false → cfg = true) :
    (tau = 0x00000000#32 → alpha = 0#32 ∧ beta = 0x3F800000#32) ∧
    (tau = 0x80000000#32 → alpha = 0x7F800000#32 ∧ beta = 0xFF800000#32 ∧ cfg = true) ∧
    (tau = 0x7F800000#32 → alpha = 0x3F800000#32 ∧ beta = 0#32) ∧
    (isNaN tau = true → isNaN alpha = true ∧ beta = 0x7FC00000#32 ∧ cfg = true) := by
  subst halpha hbeta
  refine ⟨?posZero, ?negZero, ?posInf, fun h => ?nan⟩
  case posZero => rintro rfl; rw [alphaOf_posZero]; decide
  case negZero =>
    rintro rfl
    rw [alphaOf_negZero] at hcfg ⊢
    exact ⟨rfl, by decide, hcfg (by decide)⟩
  case posInf => rintro rfl; rw [alphaOf_posInf]; decide
  case nan =>
    have hnan := isNaN_alphaOf p h
    exact ⟨hnan, fsub_nan_right _ hnan, hcfg (not_finite_of_nan hnan)⟩

/-- Settles O40: the rows of one time constant, for the attack and for the release. -/
theorem degenerateTimeConstants : Obligations.DegenerateTimeConstants := by
  intro s t h
  rw [exec_next_iff] at h
  subst h
  have hattack := degenerate_timeConstant (p := s.impl) (tau := s.pTauA) rfl rfl
    (construct_cfgNonfinite_of_not_finite (s := s) (r := .alphaA) rfl)
  have hrelease := degenerate_timeConstant (p := s.impl) (tau := s.pTauR) rfl rfl
    (construct_cfgNonfinite_of_not_finite (s := s) (r := .alphaR) rfl)
  obtain ⟨hposZero, hnegZero, hposInf, hnan⟩ := hattack
  exact ⟨hposZero, hnegZero, hposInf, hnan, hrelease⟩

/-- Settles O41: GAIN_LP is the root of the rounded half of q. -/
theorem degenerateQAndMix : Obligations.DegenerateQAndMix := by
  intro s t h
  rw [exec_next_iff] at h
  subst h
  have hgain : (construct s).gainLp = fsqrt (fmul Config.half s.pQ) := rfl
  refine ⟨fun hs hn hz h1 => ?negative, fun h => ?least, fun h => ?zero, rfl, rfl, rfl⟩
  case negative =>
    have hnan := hgain.trans (fsqrt_half_of_negative hs hn hz h1)
    refine ⟨hnan, construct_cfgNonfinite_of_not_finite (r := .gainLp) rfl ?_⟩
    rw [readReg, hnan]; decide
  case least => rw [after, hgain, h]; decide
  case zero => rw [after, hgain, h]; decide

end Sys2Proof.Machine
end

section
/-! The statements on PROCESS (41_process.md R140, R150, R151, R152, R154). -/

namespace Sys2Proof.Float
open Sys2Proof.Safety

/-! ## Zeros and infinities as operands (R16) -/

theorem zero_cases {a : F32} (h : isZero a = true) : a = 0x00000000#32 ∨ a = 0x80000000#32 := by
  rw [isZero_eq h, pack_zero]
  cases sign a
  · exact .inl rfl
  · exact .inr rfl

theorem posInf_of_unsigned {a : F32} (h : isInf a = true) (hs : sign a = false) : a = Config.posInf := by
  rw [isInf_eq h, hs]; rfl

theorem fadd_comm (a b : F32) : fadd a b = fadd b a := by
  have hfin : addFinite a b = addFinite b a := by
    unfold addFinite; rw [Int.add_comm (val a), Bool.and_comm (sign a)]
  rcases class_cases a with ⟨ha, -⟩ | ⟨-, ha, -⟩ | ⟨-, -, ha⟩
  · rcases class_cases b with ⟨hb, -⟩ | ⟨-, hb, -⟩ | ⟨-, -, hb⟩
    · rw [fadd_finite ha hb, fadd_finite hb ha, hfin]
    · rw [fadd_inf_right ha hb, fadd_inf_left hb ha]
    · rw [fadd_nan_right a hb, fadd_nan_left a hb]
  · rcases class_cases b with ⟨hb, -⟩ | ⟨-, hb, -⟩ | ⟨-, -, hb⟩
    · rw [fadd_inf_left ha hb, fadd_inf_right hb ha]
    · rcases inf_cases ha with rfl | rfl <;> rcases inf_cases hb with rfl | rfl <;> decide
    · rw [fadd_nan_right a hb, fadd_nan_left a hb]
  · rw [fadd_nan_left b ha, fadd_nan_right b ha]

/-- A zero added to a canonical value gives the value, but for −0, whose sum with +0 is +0. -/
theorem fadd_zero_left {z a : F32} (hz : isZero z = true) (hc : canonical a = true) (ha : a ≠ 0x80000000#32) :
    fadd z a = a := by
  rcases class_cases a with ⟨hf, -⟩ | ⟨-, hi, -⟩ | ⟨-, -, hn⟩
  · cases hza : isZero a
    · have hval : val z + val a = val a := by rw [(val_eq_zero_iff z).2 hz, zero_add]
      have hne : val a ≠ 0 := by rw [Ne, val_eq_zero_iff, hza]; exact Bool.false_ne_true
      have hsign : decide (val a < 0) = sign a := by rw [Bool.eq_iff_iff, decide_eq_true_eq, val_neg_iff, hza]; simp
      have hround := pack_roundMag_mag hf (d := 1) (by omega)
      rw [mul_one] at hround
      rw [fadd_finite (finite_of_zero hz) hf, addFinite_of_val_ne_zero (by rwa [hval]), hval, hsign, natAbs_val, hround]
    · rcases zero_cases hza with rfl | rfl
      · rcases zero_cases hz with rfl | rfl <;> decide
      · exact absurd rfl ha
  · exact fadd_inf_right (finite_of_zero hz) hi
  · rw [fadd_nan_right z hn, (canonical_iff a).1 hc hn]

theorem ne_negZero_of_unsigned {a : F32} (hs : sign a = false) : a ≠ 0x80000000#32 := by
  rintro rfl; exact absurd hs (by decide)

theorem fmul_one_left {a : F32} (hc : canonical a = true) : fmul Config.one a = a := by
  rcases class_cases a with ⟨hf, -⟩ | ⟨-, hi, -⟩ | ⟨-, -, hn⟩
  · have hone : mag Config.one = 2 ^ 149 := by decide
    have hpos : sign Config.one = false := by decide
    rw [fmul_finite (by decide) hf, hone, hpos, Bool.false_xor, Nat.mul_comm, pack_roundMag_mag hf (by positivity)]
  · rcases inf_cases hi with rfl | rfl <;> decide
  · rw [fmul_nan_right _ hn, (canonical_iff a).1 hc hn]

theorem isZero_fmul_right {a z : F32} (ha : isFinite a = true) (hz : isZero z = true) : isZero (fmul a z) = true := by
  rw [fmul_zero_right ha hz]; exact isZero_pack _

theorem fmul_posZero_right {a : F32} (ha : isFinite a = true) (hs : sign a = false) :
    fmul a Config.zero = Config.zero := by
  rw [fmul_zero_right ha (by decide), hs]; decide

/-- +0 and either zero sum to +0. -/
theorem fadd_posZero_left {z : F32} (hz : isZero z = true) : fadd Config.zero z = Config.zero := by
  rcases zero_cases hz with rfl | rfl <;> decide

/-- A zero times an infinity or a NaN. -/
theorem fmul_zero_of_not_finite {z a : F32} (hz : isZero z = true) (ha : isFinite a = false) :
    fmul z a = Config.canonNaN := by
  rcases (Machine.not_finite_iff a).1 ha with hn | hi
  · exact fmul_nan_right z hn
  · rw [fmul_comm, fmul_inf_zero hi hz]

/-- +∞ and a value that is no NaN and has no sign sum to +∞: no infinity cancels it. -/
theorem fadd_posInf_left {a : F32} (hn : isNaN a = false) (hs : sign a = false) :
    fadd Config.posInf a = Config.posInf := by
  rcases class_cases a with ⟨hf, -⟩ | ⟨-, hi, -⟩ | ⟨-, -, h⟩
  · exact fadd_inf_left (by decide) hf
  · rw [posInf_of_unsigned hi hs]; decide
  · rw [hn] at h; exact absurd h Bool.false_ne_true

/-- A finite value above zero, as R151 asks of the coefficients. -/
def PositiveFinite (a : F32) : Prop := isFinite a = true ∧ sign a = false ∧ isZero a = false

theorem fmul_posInf_right {a : F32} (h : PositiveFinite a) : fmul a Config.posInf = Config.posInf := by
  obtain ⟨hf, hs, hz⟩ := h
  rw [fmul_comm, fmul_inf_left (by decide) (not_nan_of_finite hf) hz, hs]; decide

theorem sign_fmul_of_sign_eq {a b : F32} (h : sign a = sign b) : sign (fmul a b) = false := by
  rcases fmul_cases a b with he | ⟨m, hm, he⟩
  · rw [he]; decide
  · rw [he, pack_sign _ (by omega), h, Bool.xor_self]

theorem sign_fdiv_of_sign_eq {a b : F32} (h : sign a = sign b) : sign (fdiv a b) = false := by
  rcases fdiv_cases a b with he | ⟨m, hm, he⟩
  · rw [he]; decide
  · rw [he, pack_sign _ (by omega), h, Bool.xor_self]

/-- A positive finite value times a value without sign that is no NaN is such a value: no zero meets an infinity. -/
theorem fmul_unsigned {a b : F32} (ha : PositiveFinite a) (hn : isNaN b = false) (hs : sign b = false) :
    isNaN (fmul a b) = false ∧ sign (fmul a b) = false := by
  have ⟨hfa, hsa, _⟩ := ha
  refine ⟨?_, sign_fmul_of_sign_eq (hsa.trans hs.symm)⟩
  rcases class_cases b with ⟨hfb, -⟩ | ⟨-, hi, -⟩ | ⟨-, -, h⟩
  · rw [fmul_finite hfa hfb]; exact isNaN_pack (roundMag_le _ _)
  · rw [posInf_of_unsigned hi hs, fmul_posInf_right ha]; decide
  · rw [hn] at h; exact absurd h Bool.false_ne_true

theorem fmax_posInf_left (a : F32) : fmax Config.posInf a = Config.posInf := by
  obtain ⟨-, -, hnan, -, hinf⟩ := fabsAndFmax
  cases hn : isNaN a
  · obtain ⟨-, h, -⟩ := hinf a hn
    exact h
  · exact hnan _ a (by decide) hn

theorem fmax_posInf_right {a : F32} (hn : isNaN a = false) : fmax a Config.posInf = Config.posInf := by
  obtain ⟨-, -, -, -, hinf⟩ := fabsAndFmax
  obtain ⟨h, -⟩ := hinf a hn
  exact h

/-- The mixer's sum with the weights 0 and 1 (R154): the second signal `a`, but a −0 takes the sign of the first, and
the canonical NaN where the first is not finite. -/
theorem blend_zero_one (u a : F32) :
    (isFinite u = true → canonical a = true → a ≠ 0x80000000#32 →
      fadd (fmul Config.zero u) (fmul Config.one a) = a) ∧
    (isFinite u = true → a = 0x80000000#32 →
      fadd (fmul Config.zero u) (fmul Config.one a) = if sign u then 0x80000000#32 else 0#32) ∧
    (isFinite u = false → fadd (fmul Config.zero u) (fmul Config.one a) = Config.canonNaN) := by
  refine ⟨fun hu hc ha => ?value, fun hu ha => ?negZero, fun hu => ?nan⟩
  case value =>
    have hz : isZero (fmul Config.zero u) = true := by rw [fmul_comm]; exact isZero_fmul_right hu (by decide)
    rw [fmul_one_left hc, fadd_zero_left hz hc ha]
  case negZero =>
    rw [ha, fmul_zero_left (by decide) hu]
    cases sign u <;> decide
  case nan => rw [fmul_zero_of_not_finite (by decide) hu, fadd_nan_left _ isNaN_canonNaN]

/-! ## The pre-lowpass below its corner (R144, R152) -/

theorem val_of_unsigned {a : F32} (hs : sign a = false) : val a = mag a := by
  rw [val, hs, if_neg Bool.false_ne_true]

/-- The sum of finite values without sign rounds the sum of their magnitudes. -/
theorem fadd_of_unsigned {a b : F32} (ha : isFinite a = true) (hb : isFinite b = true) (hsa : sign a = false)
    (hsb : sign b = false) : fadd a b = pack false (roundMag (mag a + mag b) 1) := by
  have hval : val a + val b = (mag a + mag b : Nat) := by
    rw [val_of_unsigned hsa, val_of_unsigned hsb, Nat.cast_add]
  rw [fadd_finite ha hb]
  by_cases h : val a + val b = 0
  · rw [addFinite_of_val_eq_zero h, hsa, show mag a + mag b = 0 by omega, roundMag_zero (by omega)]; rfl
  · rw [addFinite_of_val_ne_zero h, hval, Int.natAbs_natCast, decide_eq_false (by omega)]

theorem sign_fadd_of_unsigned {a b : F32} (hsa : sign a = false) (hsb : sign b = false) :
    sign (fadd a b) = false := by
  rcases class_cases a with ⟨ha, -⟩ | ⟨-, ha, hn⟩ | ⟨-, -, ha⟩
  · rcases class_cases b with ⟨hb, -⟩ | ⟨-, hb, -⟩ | ⟨-, -, hb⟩
    · have hle := roundMag_le (mag a + mag b) 1
      rw [fadd_of_unsigned ha hb hsa hsb, pack_sign _ (by omega)]
    · rw [fadd_inf_right ha hb, hsb]
    · rw [fadd_nan_right a hb]; decide
  · cases hb : isNaN b
    · rw [posInf_of_unsigned ha hsa, fadd_posInf_left hb hsb]; decide
    · rw [fadd_nan_right a hb]; decide
  · rw [fadd_nan_left b ha]; decide

/-- One more than a value below 1 is less than a quantum below the exact sum: the whole quanta of the sum are not
rounded. -/
theorem fadd_one_bounds {k : F32} (hs : sign k = false) (hf : isFinite k = true) (hlt : mag k < 2 ^ 149) :
    isFinite (fadd k Config.one) = true ∧ mag k + 2 ^ 149 < mag (fadd k Config.one) + 2 ^ 126 := by
  have hone : mag Config.one = 2 ^ 149 := by decide
  rw [fadd_of_unsigned hf (by decide) hs (by decide), hone]
  obtain ⟨hfin, -⟩ := roundMag_exact (n := 2 ^ 150) (e := 150) (dvd_refl _) (by omega) (by omega)
  have hupp : roundMag (mag k + 2 ^ 149) 1 ≤ roundMag (2 ^ 150) 1 := roundMag_mono (by omega) (by omega) (by omega)
  obtain ⟨-, hexact⟩ := roundMag_exact (n := (mag k + 2 ^ 149) / 2 ^ 126 * 2 ^ 126) (e := 126)
    (Nat.dvd_mul_left _ _) (by omega) (by omega)
  have hlow : roundMag ((mag k + 2 ^ 149) / 2 ^ 126 * 2 ^ 126) 1 ≤ roundMag (mag k + 2 ^ 149) 1 :=
    roundMag_mono (by omega) (by omega) (by omega)
  have hmag := lowMag_le_iff.2 hlow
  rw [hexact] at hmag
  rw [mag_pack _ (by omega)]
  exact ⟨isFinite_pack (by omega), by omega⟩

theorem finite_of_unsigned_lt {a b : F32} (hs : sign a = false) (hlt : orderKey a < orderKey b)
    (hb : isFinite b = true) : isFinite a = true :=
  finite_of_orderKey_le ((orderKey_nonneg_iff a).2 (by rw [hs]; rfl)) hlt.le hb

/-- `k / (k + 1)` rounds to less than 0.5 where the error of `k + 1` is too small to matter. -/
theorem fdiv_add_one_lt_half_of_mag_le {k : F32} (hs : sign k = false) (hf : isFinite k = true)
    (hmag : mag k ≤ (2 ^ 24 - 4) * 2 ^ 125) : orderKey (fdiv k (fadd k Config.one)) < orderKey Config.half := by
  obtain ⟨hfin, hsum⟩ := fadd_one_bounds hs hf (by omega)
  have hz : isZero (fadd k Config.one) = false := by rw [← Bool.not_eq_true, ← mag_eq_zero_iff]; omega
  have hsign : sign (fadd k Config.one) = false := sign_fadd_of_unsigned hs (by decide)
  have hpred : roundMag ((2 ^ 24 - 1) * 2 ^ 124) 1 = 0x3EFFFFFF := by decide
  have hmono : roundMag (mag k * 2 ^ 149) (mag (fadd k Config.one)) ≤ roundMag ((2 ^ 24 - 1) * 2 ^ 124) 1 :=
    roundMag_mono (by omega) (by omega) (by omega)
  rw [fdiv_finite hf hfin hz, hs, hsign, orderKey_pack _ (by omega), if_neg (by decide),
    show orderKey Config.half = 0x3F000000 by decide]
  omega

/-- `k / (k + 1)` rounds to less than 0.5 for every `k` below 1: the three greatest such `k` are computed. -/
theorem fdiv_add_one_lt_half {k : F32} (hs : sign k = false) (hlt : orderKey k < orderKey Config.one) :
    orderKey (fdiv k (fadd k Config.one)) < orderKey Config.half := by
  by_cases hk : k.toNat % 2 ^ 31 ≤ 0x3F7FFFFC
  · refine fdiv_add_one_lt_half_of_mag_le hs (finite_of_unsigned_lt hs hlt (by decide)) ?_
    rw [mag_eq_lowMag, show (2 ^ 24 - 4) * 2 ^ 125 = lowMag 0x3F7FFFFC by decide]
    exact lowMag_le_iff.2 hk
  · have hpack := pack_eta k
    rw [hs] at hpack
    rw [orderKey, hs, if_neg Bool.false_ne_true, show orderKey Config.one = 0x3F800000 by decide] at hlt
    obtain h | h | h : k.toNat % 2 ^ 31 = 0x3F7FFFFD ∨ k.toNat % 2 ^ 31 = 0x3F7FFFFE ∨
        k.toNat % 2 ^ 31 = 0x3F7FFFFF := by omega
    all_goals rw [← hpack, h]; decide

/-- A value below 0.5 less 0.5 is negative, and of magnitude at most 0.5. -/
theorem sub_half_of_lt {b : F32} (hs : sign b = false) (hlt : orderKey b < orderKey Config.half) :
    ∃ m ≤ 0x3F000000, fsub b Config.half = pack true m := by
  have hf : isFinite b = true := finite_of_unsigned_lt hs hlt (by decide)
  have hhalf : val (fneg Config.half) = -2 ^ 148 := by decide
  rw [orderKey_lt_iff, val_of_unsigned hs, show val Config.half = 2 ^ 148 by decide] at hlt
  have hval : val b + val (fneg Config.half) = -((2 ^ 148 - mag b : Nat) : Int) := by
    rw [val_of_unsigned hs, hhalf]; omega
  have hround : roundMag (2 ^ 148) 1 = 0x3F000000 := by decide
  refine ⟨roundMag (2 ^ 148 - mag b) 1, ?_, ?_⟩
  · rw [← hround]; exact roundMag_mono (by omega) (by omega) (by omega)
  · rw [fsub, fadd_finite hf (by decide), addFinite_of_val_ne_zero (by omega), hval, Int.natAbs_neg,
      Int.natAbs_natCast, decide_eq_true (by omega)]

/-- Doubling keeps a value of magnitude at most 0.5 finite. -/
theorem isFinite_fmul_two {m : Nat} (b : Bool) (hm : m ≤ 0x3F000000) :
    isFinite (fmul Config.two (pack b m)) = true := by
  have hmag : lowMag m ≤ 2 ^ 148 := by
    rw [show (2 : Nat) ^ 148 = lowMag 0x3F000000 by decide]; exact lowMag_le_iff.2 hm
  have hround : roundMag (2 ^ 149) 1 = 0x3F800000 := by decide
  have hle : roundMag (2 ^ 150 * lowMag m) (2 ^ 149) ≤ roundMag (2 ^ 149) 1 :=
    roundMag_mono (by omega) (by omega) (by omega)
  rw [fmul_finite (by decide) (isFinite_pack (by omega)), mag_pack _ (by omega),
    show mag Config.two = 2 ^ 150 by decide]
  exact isFinite_pack (by omega)

end Sys2Proof.Float

namespace Sys2Proof.Machine
open Sys2Proof.Float Sys2Proof.Safety

/-! ## The chain (R140) -/

/-- PROCESS writes the seven datapath registers and appends one SAMPLE. -/
theorem exec_process (x : F32) (s : State) :
    exec (.process x) s = .next { s with
      rel := (processRegs x s).rel, att := (processRegs x s).att, cf := (processRegs x s).cf
      dly := (processRegs x s).dly, hp := (processRegs x s).hp, bp := (processRegs x s).bp, lp := (processRegs x s).lp
      rspq := s.rspq ++ [⟨.sample, mixer x (processRegs x s), s.impl.latencyExtra⟩] } := rfl

/-- PROCESS as one state, where the values of the registers and of the output are known. -/
theorem exec_process_of_regs {x rel att cf dly hp bp lp out : F32} {s : State}
    (hrel : (processRegs x s).rel = rel) (hatt : (processRegs x s).att = att) (hcf : (processRegs x s).cf = cf)
    (hdly : (processRegs x s).dly = dly) (hhp : (processRegs x s).hp = hp) (hbp : (processRegs x s).bp = bp)
    (hlp : (processRegs x s).lp = lp) (hout : mixer x (processRegs x s) = out) :
    exec (.process x) s = .next { s with
      rel := rel, att := att, cf := cf, dly := dly, hp := hp, bp := bp, lp := lp
      rspq := s.rspq ++ [⟨.sample, out, s.impl.latencyExtra⟩] } := by
  rw [exec_process, hrel, hatt, hcf, hdly, hhp, hbp, hlp, hout]

section
variable (x : F32) (s : State)

theorem processRegs_rel : (processRegs x s).rel = fmax (fabs x) (releaseY1 (fabs x) s) := rfl

theorem processRegs_att :
    (processRegs x s).att = fadd (fmul s.alphaA s.att) (fmul s.betaA (processRegs x s).rel) := rfl

theorem processRegs_cf : (processRegs x s).cf = fadd (fmul (processRegs x s).att s.freqBw) s.minFreq := rfl

theorem processRegs_dly : (processRegs x s).dly = fsub x (fmul (lowpassA1 (processRegs x s).cf) s.dly) := rfl

theorem processRegs_hp :
    (processRegs x s).hp = fsub (fsub (fmul s.gainLp (fmul (lowpassB0 (processRegs x s).cf)
      (fadd (processRegs x s).dly s.dly))) s.lp) (fmul s.qc s.bp) := rfl

theorem processRegs_bp :
    (processRegs x s).bp = fadd s.bp (fmul (svfF (processRegs x s).cf) (processRegs x s).hp) := rfl

theorem processRegs_lp :
    (processRegs x s).lp = fadd s.lp (fmul (svfF (processRegs x s).cf) (processRegs x s).bp) := rfl

theorem mixer_processRegs :
    mixer x (processRegs x s) = fadd (fmul s.alphaMix (processRegs x s).bp) (fmul s.betaMix x) := rfl

end

/-- Settles O44: the stages in turn are the rule's chain, and its example is computed. -/
theorem processComputesItsChain : Obligations.ProcessComputesItsChain :=
  ⟨exec_process, fun _ => (decode_eq_rowCommand_iff (op := 4#3)).2, _, exec_process _ _, by decide +kernel⟩

/-! ## NaN samples and NaN state (R150) -/

section
variable {x : F32} {s : State}

/-- A NaN in HP poisons what the filter computes after it, and the output. -/
theorem nan_after_hp (h : isNaN (processRegs x s).hp = true) :
    (processRegs x s).bp = Config.canonNaN ∧ (processRegs x s).lp = Config.canonNaN ∧
      mixer x (processRegs x s) = Config.canonNaN := by
  have hbp : (processRegs x s).bp = Config.canonNaN := by simp [processRegs_bp, h]
  exact ⟨hbp, by simp [processRegs_lp, hbp], by simp [mixer_processRegs, hbp]⟩

/-- A NaN in DLY poisons the filter behind it. -/
theorem nan_after_dly (h : isNaN (processRegs x s).dly = true) :
    (processRegs x s).hp = Config.canonNaN ∧ (processRegs x s).bp = Config.canonNaN ∧
      (processRegs x s).lp = Config.canonNaN ∧ mixer x (processRegs x s) = Config.canonNaN := by
  have hhp : (processRegs x s).hp = Config.canonNaN := by simp [processRegs_hp, h]
  exact ⟨hhp, nan_after_hp (by rw [hhp, isNaN_canonNaN])⟩

/-- A NaN in ATT reaches DLY by way of CF and `a1`. -/
theorem nan_after_att (h : isNaN (processRegs x s).att = true) :
    (processRegs x s).cf = Config.canonNaN ∧ (processRegs x s).dly = Config.canonNaN := by
  have hcf : (processRegs x s).cf = Config.canonNaN := by simp [processRegs_cf, h]
  have ha1 : isNaN (lowpassA1 Config.canonNaN) = true := by decide
  exact ⟨hcf, by simp [processRegs_dly, hcf, ha1]⟩

/-- ATT reads its own NaN. -/
theorem nan_att_persists (h : isNaN s.att = true) :
    (processRegs x s).att = Config.canonNaN ∧ (processRegs x s).cf = Config.canonNaN ∧
      (processRegs x s).dly = Config.canonNaN := by
  have hatt : (processRegs x s).att = Config.canonNaN := by simp [processRegs_att, h]
  exact ⟨hatt, nan_after_att (by rw [hatt, isNaN_canonNaN])⟩

/-- A NaN in HP is what a NaN in DLY, BP or LP leads to. -/
theorem nan_hp_of_nan (h : isNaN (processRegs x s).dly = true ∨ isNaN s.dly = true ∨ isNaN s.bp = true ∨
    isNaN s.lp = true) : isNaN (processRegs x s).hp = true := by
  rcases h with h | h | h | h <;> simp [processRegs_hp, h]

end

/-- Settles O47: the NaN reaches ATT through `y1` and REL, and the rest from there. -/
theorem naNSamplePoisonsDatapath : Obligations.NaNSamplePoisonsDatapath := by
  intro x s hx
  have hrel : (processRegs x s).rel = Config.canonNaN := by simp [processRegs_rel, releaseY1, hx]
  have hatt : (processRegs x s).att = Config.canonNaN := by simp [processRegs_att, hrel]
  obtain ⟨hcf, hdly⟩ := nan_after_att (by rw [hatt, isNaN_canonNaN])
  obtain ⟨hhp, hbp, hlp, hout⟩ := nan_after_dly (by rw [hdly, isNaN_canonNaN])
  exact exec_process_of_regs hrel hatt hcf hdly hhp hbp hlp hout

/-- Settles O48: REL is the larger of |x| and a NaN; a NaN in any of the other four reaches HP. -/
theorem naNStatePersists : Obligations.NaNStatePersists := by
  intro x s t h
  obtain rfl : t = _ := Host.Outcome.next.inj (h.symm.trans (exec_process x s))
  refine ⟨fun hx hrel => ?recovers, fun hatt => ?attack, fun hnan => ?wet⟩
  case recovers =>
    have hy : isNaN (releaseY1 (fabs x) s) = true := by simp [releaseY1, hrel]
    exact fmax_nan_right (by rwa [isNaN_fabs]) hy
  case attack =>
    obtain ⟨hatt', hcf, hdly⟩ := nan_att_persists (x := x) hatt
    obtain ⟨hhp, -⟩ := nan_after_dly (by rw [hdly, isNaN_canonNaN])
    exact ⟨hatt', hcf, hdly, hhp⟩
  case wet =>
    have hhp : isNaN (processRegs x s).hp = true := by
      refine nan_hp_of_nan (hnan.imp_left fun hatt => ?_)
      obtain ⟨-, -, hdly⟩ := nan_att_persists (x := x) hatt
      rw [hdly, isNaN_canonNaN]
    obtain ⟨hbp, hlp, hout⟩ := nan_after_hp hhp
    exact ⟨hbp, hlp, by rw [hout]; rfl⟩

/-! ## Infinite samples (R151) -/

/-- REL saturates at an infinite sample, and stays +∞ at any sample but a NaN. -/
theorem rel_saturates {x : F32} {s : State} (ha : PositiveFinite s.alphaR) (hb : PositiveFinite s.betaR)
    (hs : sign s.rel = false) (hx : isNaN x = false) (hinf : isInf x = true ∨ isInf s.rel = true) :
    (processRegs x s).rel = Config.posInf := by
  rw [processRegs_rel]
  rcases hinf with hi | hi
  · rw [posInf_of_unsigned (by rwa [isInf_fabs]) (sign_fabs x), fmax_posInf_left]
  · obtain ⟨hn, hs'⟩ := fmul_unsigned hb (by rwa [isNaN_fabs]) (sign_fabs x)
    rw [releaseY1, posInf_of_unsigned hi hs, fmul_posInf_right ha, fadd_posInf_left hn hs',
      fmax_posInf_right (by rwa [isNaN_fabs])]

/-- Settles O49: REL at +∞ saturates ATT and CF, at which `b0` is ∞ / ∞. -/
theorem infiniteSampleSaturates : Obligations.InfiniteSampleSaturates := by
  intro x s hcoef hminF _ hrelS hattN hattS hx hinf
  simp only [List.forall_mem_cons] at hcoef
  obtain ⟨haA, hbA, haR, hbR, hbw, -⟩ := hcoef
  have hrel : (processRegs x s).rel = Config.posInf :=
    rel_saturates haR hbR hrelS hx (hinf.imp_right And.left)
  have hatt : (processRegs x s).att = Config.posInf := by
    obtain ⟨hn, hs⟩ := fmul_unsigned haA hattN hattS
    rw [processRegs_att, hrel, fmul_posInf_right hbA, fadd_comm, fadd_posInf_left hn hs]
  have hcf : (processRegs x s).cf = Config.posInf := by
    rw [processRegs_cf, hatt, fmul_comm, fmul_posInf_right hbw, fadd_inf_left (by decide) hminF]
  have hdly : (processRegs x s).dly = Config.canonNaN := by
    have ha1 : isNaN (lowpassA1 Config.posInf) = true := by decide
    simp [processRegs_dly, hcf, ha1]
  obtain ⟨hhp, hbp, hlp, hout⟩ := nan_after_dly (by rw [hdly, isNaN_canonNaN])
  exact exec_process_of_regs hrel hatt hcf hdly hhp hbp hlp hout

/-! ## Silence (R152) -/

theorem sign_approxTan {c : F32} (hs : sign c = false) : sign (approxTan c) = false := by
  have hsquare : sign (fdiv (fmul c c) Config.three) = false := sign_fdiv_of_sign_eq (sign_fmul_of_sign_eq rfl)
  have hfactor := sign_fadd_of_unsigned (a := Config.one) (by decide) hsquare
  exact sign_fmul_of_sign_eq (hs.trans hfactor.symm)

/-- `b0` of the pre-lowpass where `ApproxTan` of a center frequency without sign is below 1. -/
theorem lowpassB0_lt_half {c : F32} (hs : sign c = false) (hlt : orderKey (approxTan c) < orderKey Config.one) :
    sign (lowpassB0 c) = false ∧ orderKey (lowpassB0 c) < orderKey Config.half := by
  have htan := sign_approxTan hs
  have hsum : sign (fadd (approxTan c) Config.one) = false := sign_fadd_of_unsigned htan (by decide)
  exact ⟨sign_fdiv_of_sign_eq (htan.trans hsum.symm), fdiv_add_one_lt_half htan hlt⟩

/-- `a1` of the pre-lowpass where `b0` is below 0.5. -/
theorem lowpassA1_negative {c : F32} (hs : sign (lowpassB0 c) = false)
    (hlt : orderKey (lowpassB0 c) < orderKey Config.half) :
    isFinite (lowpassA1 c) = true ∧ sign (lowpassA1 c) = true := by
  obtain ⟨m, hm, hdiff⟩ := sub_half_of_lt hs hlt
  have hfin := isFinite_fmul_two true hm
  rw [lowpassA1, hdiff]
  refine ⟨hfin, ?_⟩
  rw [sign_of_nan_or_pack (fmul_cases _ _) (not_nan_of_finite hfin), pack_sign _ (by omega)]
  rfl

/-- A product with a negative `a1` is −0, and that taken from either zero leaves +0. -/
theorem zero_sub_negative_mul_zero {x a : F32} (hx : isZero x = true) (ha : isFinite a = true) (hs : sign a = true) :
    fsub x (fmul a Config.zero) = Config.zero := by
  rw [fmul_zero_right ha (by decide), hs]
  rcases zero_cases hx with rfl | rfl <;> decide

/-- One stage of the level detector on zeros. -/
theorem blend_of_zeros {a b z : F32} (ha : isFinite a = true) (hs : sign a = false) (hb : isFinite b = true)
    (hz : isZero z = true) : fadd (fmul a Config.zero) (fmul b z) = Config.zero := by
  rw [fmul_posZero_right ha hs, fadd_posZero_left (isZero_fmul_right hb hz)]

/-- Settles O50: every stage keeps +0, the pre-lowpass because its `a1` is negative. -/
theorem silenceFromConstructedState : Obligations.SilenceFromConstructedState := by
  intro x s hx (hrel0 : s.rel = Config.zero) (hatt0 : s.att = Config.zero) (hdly0 : s.dly = Config.zero)
    (hbp0 : s.bp = Config.zero) (hlp0 : s.lp = Config.zero) hfin haA haR huns hlt
  simp only [List.forall_mem_cons] at hfin huns
  obtain ⟨haAf, hbAf, haRf, hbRf, hbwf, -⟩ := hfin
  obtain ⟨⟨hminf, hmins⟩, ⟨hqcf, hqcs⟩, ⟨hgainf, hgains⟩, ⟨hmixf, hmixs⟩, ⟨hbmixf, -⟩, ⟨hff, hfs⟩, -⟩ := huns
  obtain ⟨hb0s, hb0lt⟩ := lowpassB0_lt_half hmins hlt
  have hb0f : isFinite (lowpassB0 s.minFreq) = true := finite_of_unsigned_lt hb0s hb0lt (by decide)
  obtain ⟨ha1f, ha1s⟩ := lowpassA1_negative hb0s hb0lt
  have habs : fabs x = Config.zero := by rcases zero_cases hx with rfl | rfl <;> decide
  have hrel : (processRegs x s).rel = Config.zero := by
    rw [processRegs_rel, releaseY1, habs, hrel0, blend_of_zeros haRf haR hbRf (by decide)]
    decide
  have hatt : (processRegs x s).att = Config.zero := by
    rw [processRegs_att, hrel, hatt0, blend_of_zeros haAf haA hbAf (by decide)]
  have hcf : (processRegs x s).cf = s.minFreq := by
    rw [processRegs_cf, hatt, fmul_comm]
    exact fadd_zero_left (isZero_fmul_right hbwf (by decide)) (canonical_of_not_nan (not_nan_of_finite hminf))
      (ne_negZero_of_unsigned hmins)
  have hdly : (processRegs x s).dly = Config.zero := by
    rw [processRegs_dly, hcf, hdly0, zero_sub_negative_mul_zero hx ha1f ha1s]
  have hhp : (processRegs x s).hp = Config.zero := by
    rw [processRegs_hp, hdly, hcf, hdly0, hbp0, hlp0, fadd_posZero_left (by decide),
      fmul_posZero_right hb0f hb0s, fmul_posZero_right hgainf hgains, fmul_posZero_right hqcf hqcs]
    decide
  have hbp : (processRegs x s).bp = Config.zero := by
    rw [processRegs_bp, hhp, hcf, hbp0, fmul_posZero_right hff hfs, fadd_posZero_left (by decide)]
  have hlp : (processRegs x s).lp = Config.zero := by
    rw [processRegs_lp, hbp, hcf, hlp0, fmul_posZero_right hff hfs, fadd_posZero_left (by decide)]
  have hout : mixer x (processRegs x s) = Config.zero := by
    rw [mixer_processRegs, hbp, blend_of_zeros hmixf hmixs hbmixf hx]
  exact exec_process_of_regs hrel hatt hcf hdly hhp hbp hlp hout

/-! ## The ends of the mix ratio (R154) -/

/-- Settles O51: the mixer blends BP with the weight 0 and the sample with the weight 1. -/
theorem mixZeroGivesDrySample : Obligations.MixZeroGivesDrySample := by
  refine ⟨fun s t hmix h => ?weights, fun x s ha hb => ⟨_, _, exec_process x s, rfl, ?output⟩⟩
  case weights =>
    obtain ⟨-, -, -, -, halpha, hbeta⟩ := degenerateQAndMix s t h
    exact ⟨halpha.trans hmix, by rw [hbeta, hmix]; decide⟩
  case output =>
    obtain ⟨hvalue, hnegZero, hnan⟩ := blend_zero_one (processRegs x s).bp x
    rw [mixer_processRegs, ha, hb]
    exact ⟨fun hf hx => hvalue hf (canonical_of_not_nan hx), hnegZero, hnan⟩

/-- Settles O52: the mixer blends the sample with the weight 0 and BP, a canonical value, with the weight 1. -/
theorem mixOneGivesWetSample : Obligations.MixOneGivesWetSample := by
  refine ⟨fun s t hmix h => ?weights, fun x s ha hb => ⟨_, _, exec_process x s, rfl, ?output⟩⟩
  case weights =>
    obtain ⟨-, -, -, -, halpha, hbeta⟩ := degenerateQAndMix s t h
    exact ⟨halpha.trans hmix, by rw [hbeta, hmix]; decide⟩
  case output =>
    obtain ⟨hvalue, hnegZero, hnan⟩ := blend_zero_one x (processRegs x s).bp
    rw [mixer_processRegs, ha, hb, fadd_comm]
    exact ⟨fun hf => hvalue hf (canonical_fadd _ _), hnegZero, hnan⟩

end Sys2Proof.Machine
end

section
/-! The statements on NOP, PEEK and the reserved opcodes (42_control.md R180 to R183). -/

namespace Sys2Proof.Machine
open Sys2Proof.Safety

/-! ## NOP and the reserved opcodes (R180, R183) -/

/-- Settles O30: the meaning of NOP is the state it was given, and its row is that of opcode 000. -/
theorem nopDoesNothing : Obligations.NopDoesNothing :=
  ⟨fun _ => rfl, fun _ => (decode_eq_rowCommand_iff (op := 0#3)).2⟩

/-- Settles O34: both opcodes set the one sticky bit, and the PEEK of the example reads it. -/
theorem reservedOpcodeSetsErrOp : Obligations.ReservedOpcodeSetsErrOp :=
  ⟨fun _ => ⟨rfl, rfl⟩, fun _ => (decode_eq_rowCommand_iff (op := 6#3)).2,
    fun _ => (decode_eq_rowCommand_iff (op := 7#3)).2, _, execAll_eq_foldl _ State.reset, by decide⟩

/-! ## What a PEEK emits (R181, R182) -/

/-- A PEEK of a register's own index emits what the register reads. -/
theorem exec_peek_idxOfReg (r : Reg) (s : State) :
    exec (.peek (idxOfReg r)) s = .next (emit .peek (readReg r s) s) := by
  rw [exec, execPeek, regOfIdx_idxOfReg]

/-- A PEEK of any other index emits 0 and sets ERR_IDX. -/
theorem exec_peek_of_bad_index {idx : RegIdx} (h : 25 ≤ idx.toNat) (s : State) :
    exec (.peek idx) s = .next (emit .peek 0x00000000#32 (setStatus .errIdx s)) := by
  rcases regOfIdx_cases idx with ⟨-, -, -, hle⟩ | ⟨hnone, -⟩
  · omega
  · rw [exec, execPeek, hnone]

/-- The table of R97 holds each register at its own index. -/
theorem peekTable_getD_idxOfReg (r : Reg) (s : State) : (peekTable s).getD (idxOfReg r).toNat 0#32 = readReg r s := by
  cases r with
  | param p => cases p <;> rfl
  | _ => rfl

/-- Settles O31: an index up to 24 is that of a register, which the table holds there. -/
theorem peekReadsRegister : Obligations.PeekReadsRegister := by
  refine fun idx s => ⟨fun hle => ?register, fun hge => exec_peek_of_bad_index hge s⟩
  case register =>
    rcases regOfIdx_cases idx with ⟨r, -, rfl, -⟩ | ⟨-, hge⟩
    · rw [exec_peek_idxOfReg, peekTable_getD_idxOfReg, emit]
    · omega

theorem statusWord_reserved_bits (s : State) {n : Nat} (h : 3 ≤ n) : (statusWord s).getLsbD n = false := by
  rw [statusWord, BitVec.getLsbD_append, if_neg (by omega), BitVec.getLsbD_zero]

/-- Settles O32: index 24 is that of STATUS, and emitting a response writes no bit of it. -/
theorem statusWordBits : Obligations.StatusWordBits := by
  intro s
  obtain ⟨hop, hidx, hcfg⟩ := statusWord_bits s
  exact ⟨_, statusWord s, exec_peek_idxOfReg .status s, rfl, hop, hidx, hcfg, fun _ => statusWord_reserved_bits s,
    rfl, rfl, rfl⟩

/-! ## What a PEEK cannot change (R52, R181) -/

/-- `t` is `s` but for ERR_IDX and the PEEK responses in RSPQ. -/
def SameButPeeks (s t : State) : Prop :=
  t = { s with errIdx := t.errIdx, rspq := t.rspq } ∧ samples t = samples s

theorem sameButPeeks_peek (idx : RegIdx) (s : State) : SameButPeeks s (after (.peek idx) s) := by
  refine ⟨?_, by rw [samples_after, List.append_nil]⟩
  rw [after]
  cases regOfIdx idx <;> rfl

/-- No command reads ERR_IDX or RSPQ into anything else; a PEEK of STATUS reads ERR_IDX into its response. -/
theorem after_of_errIdx_rspq (i : Instr) (e : Bool) (q : List Response) (s : State) :
    ∃ e' q', after i { s with errIdx := e, rspq := q } = { after i s with errIdx := e', rspq := q' } := by
  cases i with
  | setp idx v =>
    simp only [after]
    cases paramOfIdx idx with
    | some p => exact ⟨e, q, by cases p <;> rfl⟩
    | none => exact ⟨true, q, rfl⟩
  | peek idx =>
    simp only [after]
    cases regOfIdx idx <;> exact ⟨_, _, rfl⟩
  | _ => exact ⟨_, _, rfl⟩

/-- Every command keeps two such states such: a PROCESS mixes the same sample in both. -/
theorem sameButPeeks_after (i : Instr) {s t : State} (h : SameButPeeks s t) :
    SameButPeeks (after i s) (after i t) := by
  obtain ⟨ht, hsamples⟩ := h
  refine ⟨?state, ?samples⟩
  case state =>
    obtain ⟨e, q, he⟩ := after_of_errIdx_rspq i t.errIdx t.rspq s
    rw [← ht] at he
    rw [he]
  case samples =>
    rw [samples_after, samples_after, hsamples]
    cases i with
    | process x => rw [ht]; rfl
    | _ => rfl

/-- Such states read the same in every register but STATUS. -/
theorem readReg_of_sameButPeeks {s t : State} (h : SameButPeeks s t) {r : Reg} (hr : r ≠ .status) :
    readReg r t = readReg r s := by
  obtain ⟨ht, -⟩ := h
  rw [ht]
  cases r with
  | param p => cases p <;> rfl
  | status => exact absurd rfl hr
  | _ => rfl

/-- A list of commands keeps two such states such. -/
theorem sameButPeeks_execAll {cs : List Instr} {s t u v : State} (h : SameButPeeks s t)
    (hu : execAll cs t = .next u) (hv : execAll cs s = .next v) : SameButPeeks v u := by
  rw [execAll_eq_foldl] at hu hv
  cases hu
  cases hv
  exact List.foldl_rel h fun i _ _ _ => sameButPeeks_after i

/-- Settles O33: ERR_IDX and the PEEK responses stay all that differs, whatever commands follow. -/
theorem peekChangesNoLaterSample : Obligations.PeekChangesNoLaterSample := by
  intro idx cs s t u v ht hu hv
  rw [exec_next_iff] at ht
  subst ht
  have hend : SameButPeeks v u := sameButPeeks_execAll (sameButPeeks_peek idx s) hu hv
  have ⟨hstate, hsamples⟩ := hend
  exact ⟨fun r hr => readReg_of_sameButPeeks hend hr, by rw [hstate], by rw [hstate], hsamples⟩

end Sys2Proof.Machine
end

section
/-! The statements on ill-formed commands and on the traps there are not (60_exceptions.md R190, R191, R193, R195). -/

namespace Sys2Proof.Machine
open Sys2Proof.Safety

/-! ## The error bits (R191, R193, R195) -/

/-- No command is ill-formed in both ways: a reserved opcode has no index to be out of range (R193). -/
theorem not_reservedOp_and_badIndex (i : Instr) : (i.reservedOp && i.badIndex) = false := by
  cases i <;> rfl

theorem wellFormed_iff (i : Instr) : i.wellFormed = true ↔ i.reservedOp = false ∧ i.badIndex = false := by
  rw [Instr.wellFormed, Bool.and_eq_true, Bool.not_eq_true', Bool.not_eq_true']

/-- Settles O24: `exec` answers what `after` gives, and a well-formed command is ill-formed in neither way. -/
theorem errorsAreExact : Obligations.ErrorsAreExact := by
  intro i s t h
  rw [exec_next_iff] at h
  subst h
  obtain ⟨hop, hidx⟩ := after_errors i s
  refine ⟨hop, hidx, not_reservedOp_and_badIndex i, fun hwf => ?wellFormed⟩
  case wellFormed =>
    obtain ⟨hr, hb⟩ := (wellFormed_iff i).1 hwf
    rw [hop, hidx, hr, hb, Bool.or_false, Bool.or_false]
    exact ⟨rfl, rfl⟩

/-- Settles O23: a response transfer and the passing of the edge write no error bit, and a command only sets them. -/
theorem errorBitsAreSticky : Obligations.ErrorBitsAreSticky := by
  intro s t h hrst
  rcases step_cases h with ⟨hr, -⟩ | ⟨-, -, -, rfl⟩ | ⟨-, -, -, -, rfl⟩
  · exact absurd (hr.symm.trans hrst) (by decide)
  · rw [tick_errOp, tick_errIdx, takeResponse_errOp, takeResponse_errIdx]
    exact ⟨id, id⟩
  · obtain ⟨hop, hidx⟩ := after_errors (decode (nextEdge s).cmdWord) (beginCommand (tick (takeResponse (nextEdge s) s)))
    refine ⟨fun hset => ?_, fun hset => ?_⟩
    · simp [hop, hset]
    · simp [hidx, hset]

/-! ## No trap (R190) -/

/-- An edge of an initialised block is answered, whatever transfers there: only the refusal before the first reset stops
a step, and no command does. -/
theorem step_answers {s : State} (hi : s.initialised = true) : ∃ t, step s = .next t := by
  cases hr : (nextEdge s).rst with
  | true => exact ⟨_, step_reset hr⟩
  | false =>
    cases hc : (nextEdge s).cmdValid && cmdReady false s with
    | false => exact ⟨_, step_quiet hi hr hc⟩
    | true =>
      obtain ⟨hv, hready⟩ := Bool.and_eq_true_iff.1 hc
      exact ⟨_, (step_accept hi hr hv hready).trans (exec_eq _ _)⟩

/-- After an edge that is answered the block is initialised: a reset makes it so, and nothing else is answered before
the first. -/
theorem initialised_of_step {s t : State} (h : step s = .next t) : t.initialised = true := by
  rcases step_cases h with ⟨-, rfl⟩ | ⟨-, hi, -, rfl⟩ | ⟨-, hi, -, -, rfl⟩
  · exact resetBlock_initialised _
  · rw [tick_initialised, takeResponse_initialised, hi]
  · obtain ⟨-, hkeep, -⟩ := after_outside (decode (nextEdge s).cmdWord)
      (beginCommand (tick (takeResponse (nextEdge s) s)))
    rw [hkeep, beginCommand_initialised, tick_initialised, takeResponse_initialised, hi]

/-- Settles O22: every command completes with the state `after` gives, and every edge after a reset is answered. -/
theorem blockNeverTraps : Obligations.BlockNeverTraps := by
  refine ⟨fun i s => ⟨_, exec_eq i s, after_outside i s⟩, fun s hi => ?edge⟩
  case edge =>
    obtain ⟨t, ht⟩ := step_answers hi
    exact ⟨t, ht, initialised_of_step ht⟩

end Sys2Proof.Machine
end

section
/-! The statements on reset (70_reset_and_hazards.md R220, R221, R222). -/

namespace Sys2Proof.Machine

/-! ## What an edge with `rst` leaves (R220) -/

/-- The passing of the edge has no part in the default construction. -/
theorem construct_loadDefaults_tick (s : State) :
    construct (loadDefaults (tick s)) = tick (construct (loadDefaults s)) := rfl

/-- A reset leaves every register but STATUS as the default construction does. -/
theorem readReg_resetBlock {r : Reg} (hr : r ≠ .status) (s : State) :
    readReg r (resetBlock s) = readReg r (construct (loadDefaults s)) := by
  cases r with
  | status => exact absurd rfl hr
  | param p => cases p <;> rfl
  | _ => rfl

/-- A reset leaves STATUS at 0 (R44, R55). -/
@[simp] theorem readReg_status_resetBlock (s : State) : readReg .status (resetBlock s) = 0x00000000#32 := by
  rw [readReg, statusWord, resetBlock_errOp, resetBlock_errIdx, resetBlock_cfgNonfinite]
  rfl

/-- An empty response buffer is not full, however small it is. -/
theorem rspFull_of_rspq_nil {s : State} (h : s.rspq = []) : rspFull s = false := by
  unfold rspFull
  split
  · rfl
  · simp [h]

/-- After a reset a command is accepted at the next edge without `rst` (R221). -/
theorem cmdReady_resetBlock (s : State) : cmdReady false (resetBlock s) = true := by
  simp [cmdReady, rspFull_of_rspq_nil (resetBlock_rspq s)]

/-- With the reference `ExpF` a reset leaves the values of R55. -/
theorem resetBlock_reference {s : State} (h : s.impl.expPoints = []) :
    resetBlock s = { State.reset with inputs := s.inputs, impl := s.impl } := by
  rw [resetBlock, construct_loadDefaults_reference h]
  rfl

/-- Settles O15: the edge leaves `resetBlock` of the state it passes, whose registers but STATUS are those of the default
construction. -/
theorem resetEdgeSetsEverything : Obligations.ResetEdgeSetsEverything := by
  refine fun s hrst => ⟨_, step_reset hrst, ?registers, readReg_status_resetBlock _, resetBlock_errOp _,
    resetBlock_errIdx _, resetBlock_cfgNonfinite _, resetBlock_rspq _, cmdReady_resetBlock _, resetBlock_inputs _,
    resetBlock_impl _, fun hexp => ?reference⟩
  case registers =>
    intro u hu r hr
    rw [exec_next_iff] at hu
    subst hu
    rw [readReg_resetBlock hr, construct_loadDefaults_tick, readReg_tick, after]
  case reference => exact resetBlock_reference (s := tick s) hexp

/-! ## The ports during `rst` (R193, R221) -/

theorem cmdReady_rst (s : State) : cmdReady true s = false := rfl

theorem rspValid_rst (s : State) : rspValid true s = false := rfl

theorem rspWord_rst (s : State) : rspWord true s = none := by
  rw [rspWord, rspValid_rst, if_neg Bool.false_ne_true]

/-- Settles O16: a reset reads of its edge's inputs nothing but `rst`. -/
theorem nothingTransfersDuringReset : Obligations.NothingTransfersDuringReset := by
  refine fun s => ⟨cmdReady_rst s, rspValid_rst s, rspWord_rst s, fun hrst e he => ?edge⟩
  case edge =>
    have hdriven : (nextEdge { s with inputs := e :: s.inputs.tail }).rst = true := he
    have htick : tick { s with inputs := e :: s.inputs.tail } = tick s := rfl
    rw [step_reset hrst, step_reset hdriven, htick]

/-! ## Before the first reset (R222) -/

/-- A step before the first reset, at an edge without `rst`. -/
theorem step_refused {s : State} (hi : s.initialised = false) (hr : (nextEdge s).rst = false) :
    step s = .refused .beforeFirstReset := by
  simp [step, clockEdge, hi, hr]

/-- Settles O17: the edge with `rst` is a reset, which leaves an initialised block. -/
theorem refusesBeforeFirstReset : Obligations.RefusesBeforeFirstReset :=
  fun _ hi => ⟨step_refused hi, fun hrst => ⟨_, step_reset hrst, resetBlock_initialised _⟩⟩

end Sys2Proof.Machine
end
